-- ==== Sys2Proof/Word.lean ====
section
/-! DEFINITION. Bytes and pixels (00_scope.md R9, R11). -/

namespace Sys2Proof

/-- R9: a byte is 8 bits; bit 7 is the most significant. -/
abbrev Byte := BitVec 8

/-- R11: four unsigned 8-bit channels, never packed into one word; equality is equality of all four. -/
structure Pixel where
  r : Byte
  g : Byte
  b : Byte
  a : Byte
deriving DecidableEq, Repr

end Sys2Proof
end

