-- ==== Sys2Proof/Machine/Memory.lean ====
section
/-! DEFINITION. A byte buffer (20_memory.md R50, R58): a list of (offset, byte) pairs, offsets strictly rising. -/

namespace Sys2Proof.Machine

/-- SRC and DST: bytes by offset from the start of the buffer, in the canonical form `Memory.wf`. -/
abbrev Memory := List Host.Cell

/-- What an offset that is not listed reads as: no value. The block never put a byte there, nor did the host.
DESIGN CHOICE, safe, log 6. -/
def Memory.unlisted : Option Byte := none

/-- R58, R59: the read of one byte; it changes nothing. -/
def Memory.read : Memory → Nat → Option Byte
  | [], _ => Memory.unlisted
  | (a, v) :: m, x => if a = x then some v else Memory.read m x

/-- R58, R59: the store of one byte. -/
def Memory.write : Memory → Nat → Byte → Memory
  | [], x, v => [(x, v)]
  | (a, u) :: m, x, v =>
    if x < a then (x, v) :: (a, u) :: m
    else if x = a then (x, v) :: m
    else (a, u) :: Memory.write m x v

/-- R12, R58: `MemWrite`, consecutive single-byte stores in ascending order. -/
def Memory.writeBytes : Memory → Nat → List Byte → Memory
  | m, _, [] => m
  | m, x, v :: vs => Memory.writeBytes (m.write x v) (x + 1) vs

/-- R12, R58: `MemRead`, n consecutive bytes in ascending order, none where one of them has no value. -/
def Memory.readBytes : Memory → Nat → Nat → Option (List Byte)
  | _, _, 0 => some []
  | m, x, n + 1 =>
    match m.read x with
    | none => none
    | some v =>
      match Memory.readBytes m (x + 1) n with
      | none => none
      | some vs => some (v :: vs)

/-- A buffer that holds exactly these bytes, the first at offset `x`. -/
def Memory.ofBytes : Nat → List Byte → Memory
  | _, [] => []
  | x, v :: vs => (x, v) :: Memory.ofBytes (x + 1) vs

/-- The canonical form: offsets strictly rising. No entry equals what an unlisted offset reads as, since that is no
byte. -/
def Memory.wf : Memory → Bool
  | [] => true
  | (a, _) :: m => m.all (fun cell => decide (a < cell.1)) && Memory.wf m

end Sys2Proof.Machine
end

