-- ==== Sys2Proof/Config.lean ====
section
/-! DEFINITION. The constants of 00_scope.md R7, the parameters of R8, and the free values. -/

namespace Sys2Proof

/-- R7 HEADER_LEN: bytes of the frame header. The chunk region starts here in the stream (R25). -/
abbrev Config.headerLen : Nat := 12

/-- R7 PAD_LEN: padding bytes after the last chunk. -/
abbrev Config.padLen : Nat := 4

/-- R7 DIM_MAX: the largest legal width and height. -/
abbrev Config.dimMax : Nat := 65535

/-- R7 RUN8_MAX: the longest run of a RUN_8. -/
abbrev Config.run8Max : Nat := 32

/-- R7 RUN_MAX: the run length at which the encoder always flushes. -/
abbrev Config.runMax : Nat := 8224

/-- The largest value of the 32-bit `body_length` field (30_encoding.md R75, 42_chunk_encoder.md R158). -/
abbrev Config.bodyMax : Nat := 4294967295

/-- R7 PX_INIT: the pixel register at the start of both passes. -/
def Config.pxInit : Pixel := ⟨0, 0, 0, 255⟩

/-- R7 SLOT_INIT: every cache slot at the start of both passes. -/
def Config.slotInit : Pixel := ⟨0, 0, 0, 0⟩

/-- 30_encoding.md R76 MAGIC: the characters q, o, i, f in stream order. -/
def Config.magic : List Byte := [0x71, 0x6F, 0x69, 0x66]

/-- R78: the mask that isolates a 2-bit tag. -/
def Config.mask2 : Byte := 0xC0

/-- R78: the mask that isolates a 3-bit tag. -/
def Config.mask3 : Byte := 0xE0

/-- R78: the mask that isolates a 4-bit tag. -/
def Config.mask4 : Byte := 0xF0

/-- R7 TAG_RUN_8: the one tag value the source fixes. -/
def Config.tagRun8 : Byte := 0x40

/-- R8, R78: the six tag values the source leaves open, each as the byte the masked first byte is matched
against. PRESUMED by the spec itself (92 D2), log 8. -/
structure Tags where
  index  : Byte
  run16  : Byte
  diff8  : Byte
  diff16 : Byte
  diff24 : Byte
  color  : Byte
deriving DecidableEq, Repr

/-- R78: the assignment the spec decided. -/
def Tags.default : Tags :=
  { index := 0x00, run16 := 0x60, diff8 := 0x80, diff16 := 0xC0, diff24 := 0xE0, color := 0xF0 }

/-- R78: mask and match of the seven opcodes, in the decoder's test order (R90). -/
def Tags.rows (t : Tags) : List (Byte × Byte) :=
  [(Config.mask2, t.index), (Config.mask2, t.diff8),
   (Config.mask3, Config.tagRun8), (Config.mask3, t.run16), (Config.mask3, t.diff16),
   (Config.mask4, t.diff24), (Config.mask4, t.color)]

/-- R78: `b` is an opcode byte of the row exactly when its masked bits are the row's match. -/
def Tags.rowMatches (row : Byte × Byte) (b : Byte) : Bool := b &&& row.1 == row.2

/-- R79 (c) for two rows: neither tag is a prefix of the other, that is, they differ in a bit both masks keep. -/
def Tags.disjoint (x y : Byte × Byte) : Bool := x.2 &&& (x.1 &&& y.1) != y.2 &&& (x.1 &&& y.1)

/-- R79 (a) and (c): each match lies inside its mask, and the seven tags are prefix-free. -/
abbrev Tags.valid (t : Tags) : Prop :=
  (∀ row ∈ t.rows, row.2 &&& row.1 = row.2) ∧ t.rows.Pairwise (fun x y => Tags.disjoint x y = true)

/-- R8, R20: "configuration fixed before any pass". -/
structure Config where
  tags             : Tags
  /-- R8, 43_chunk_decoder.md R193 and R197: what the exhausted path does. Log 9. -/
  strictTruncation : Bool
deriving DecidableEq, Repr

/-- R8: the values the spec decided. -/
def Config.default : Config := { tags := Tags.default, strictTruncation := false }

/-- The free value: the content of a result register between START and FINISH, which 10_state.md R38 calls
unspecified. No body: nothing can prove what it is. Applied to the counter `freeCtr` of State. Log 7. -/
opaque Config.freeValue : Nat → BitVec 64

end Sys2Proof
end

