-- ==== Sys2Proof/Syntax.lean ====
section
/-! DEFINITION. The instructions: one constructor per row of spec/opcode_table.json. -/

namespace Sys2Proof

/-- The seven chunk opcodes with the operands of 30_encoding.md R94, and the two commands of 44_commands.md. -/
inductive Instr where
  /-- `INDEX s` (R80, R185). -/
  | index (slot : Fin 64)
  /-- `RUN_8 n`, n the number of pixels covered (R81, R186). -/
  | run8 (n : Nat)
  /-- `RUN_16 n`, n the number of pixels covered (R82, R187). -/
  | run16 (n : Nat)
  /-- `DIFF_8 dr,dg,db` (R83, R188). -/
  | diff8 (dr dg db : Int)
  /-- `DIFF_16 dr,dg,db` (R84, R189). -/
  | diff16 (dr dg db : Int)
  /-- `DIFF_24 dr,dg,db,da` (R85, R190). -/
  | diff24 (dr dg db da : Int)
  /-- `COLOR r=..,g=..,b=..,a=..`: a channel is flagged exactly when it carries a literal (R86, R191). -/
  | color (r g b a : Option Byte)
  /-- ENCODE: the value 1 written to CMD (R220). -/
  | encodeCmd
  /-- DECODE: the value 2 written to CMD (R221). -/
  | decodeCmd
deriving DecidableEq, Repr

/-- 30_encoding.md R87, 10_state.md R26: how many bytes of the chunk region the instruction takes. A command is
no part of the stream. -/
def Instr.size : Instr → Nat
  | .index _ => 1
  | .run8 _ => 1
  | .run16 _ => 2
  | .diff8 _ _ _ => 1
  | .diff16 _ _ _ => 2
  | .diff24 _ _ _ _ => 3
  | .color r g b a => 1 + (r.toList.length + g.toList.length + b.toList.length + a.toList.length)
  | .encodeCmd => 0
  | .decodeCmd => 0

end Sys2Proof
end

