-- ==== Sys2Proof/Machine/State.lean ====
section
/-! DEFINITION. The state of the block (10_state.md R20), the reasons a step can stop, and reset (R38, R270). -/

namespace Sys2Proof.Machine

/-- 10_state.md R29. -/
inductive Mode where
  /-- After reset, no command accepted yet. -/
  | idle
  /-- An encode pass is in progress. -/
  | enc
  /-- A decode pass is in progress. -/
  | dec
  /-- The last pass finished. -/
  | done
  /-- The last command raised an error. -/
  | error
deriving DecidableEq, Repr

/-- 10_state.md R20: the register C holds 3 or 4. -/
inductive Channels where
  | three
  | four
deriving DecidableEq, Repr

/-- 10_state.md R28: the four flags. -/
structure Status where
  busy     : Bool
  done     : Bool
  err      : Bool
  underrun : Bool
deriving DecidableEq, Repr

/-- What the host does to the block, one act at a step boundary (44_commands.md R222). DESIGN CHOICE, log 2. -/
inductive HostAct where
  /-- A write of ARG_WIDTH (10_state.md R30). -/
  | writeArgWidth (v : BitVec 32)
  /-- A write of ARG_HEIGHT. -/
  | writeArgHeight (v : BitVec 32)
  /-- A write of ARG_CHANNELS. -/
  | writeArgChannels (v : BitVec 32)
  /-- A write of ARG_SRC_LEN. -/
  | writeArgSrcLen (v : BitVec 64)
  /-- The host makes SRC hold exactly these bytes from offset 0 (R222 step 2). Log 17. -/
  | fillSrc (bytes : List Byte)
  /-- The host provides a DST that holds exactly these bytes from offset 0 (70_reset_and_hazards.md R272). Log 17. -/
  | provideDst (bytes : List Byte)
  /-- A write of CMD (10_state.md R31). -/
  | writeCmd (v : BitVec 32)
  /-- The host does nothing while the block takes one step. -/
  | letRun
  /-- The host polls STATUS until BUSY = 0 (R222 step 5). -/
  | awaitNotBusy
deriving DecidableEq, Repr

/-- 10_state.md R20, R28 to R35; the two buffers of 20_memory.md R50; the configuration of 00_scope.md R8; and the
model's own `inbox` (log 2) and `freeCtr` (log 7). -/
structure State where
  /-- The parameters of 00_scope.md R8, "fixed before any pass"; no step writes them. -/
  cfg         : Config
  /-- CACHE[0..63] (R35). -/
  cache       : Vector Pixel 64
  /-- PX: the previous pixel of an encode pass, the current pixel of a decode pass (R22). -/
  px          : Pixel
  /-- RUN (R23). -/
  run         : BitVec 14
  /-- CUR, the byte cursor into the chunk region (R25). -/
  cur         : BitVec 64
  /-- POS, the index of the next pixel (R24). -/
  pos         : BitVec 32
  /-- W. -/
  w           : BitVec 16
  /-- H. -/
  h           : BitVec 16
  /-- C. -/
  c           : Channels
  /-- N = W × H. -/
  n           : BitVec 32
  /-- CDL, the length of the chunk region in a decode pass (43_chunk_decoder.md R198). -/
  cdl         : BitVec 64
  mode        : Mode
  argWidth    : BitVec 32
  argHeight   : BitVec 32
  argChannels : BitVec 32
  argSrcLen   : BitVec 64
  status      : Status
  /-- ERR_CLASS: 1 InvalidArgument, 2 FormatError, 0 after reset (R33, R38). -/
  errClass    : Nat
  /-- ERR_CAUSE: the codes of 60_exceptions.md R241 and R242, 0 after reset. -/
  errCause    : Nat
  resWidth    : BitVec 16
  resHeight   : BitVec 16
  resLen      : BitVec 64
  src         : Memory
  dst         : Memory
  /-- The model's own: what the host will do next, oldest first. -/
  inbox       : List HostAct
  /-- The model's own: how many free values the run has drawn. -/
  freeCtr     : Nat
deriving DecidableEq, Repr

/-- Why a step stops. Neither is an error of the spec: those are states (60_exceptions.md R245). -/
inductive Fault where
  /-- Raised by ENCODE's pixel load, DECODE's header read and the chunk fetch when SRC has no byte at the offset: the
  host never placed one, so the byte is outside the buffer of 20_memory.md R50. Safe. Log 6. -/
  | srcUnfilled
  /-- Raised by the sequencer in a pass with POS > N, for which the spec defines no step and which no run reaches.
  Safe. Log 14. -/
  | posPastEnd
deriving DecidableEq, Repr

/-- What the model does not accept. -/
inductive Refusal where
  /-- Raised by `exec` alone, for an instruction that has no meaning yet. Safe. -/
  | notModelled (mnemonic : String)
  /-- Raised when the host changes SRC while BUSY: 93_implementation_defined.md U7, "refuse". Safe. Log 13. -/
  | srcChangedWhileBusy
  /-- Raised when the host changes DST while BUSY: U7, "refuse". Safe. Log 13. -/
  | dstChangedWhileBusy
deriving DecidableEq, Repr

/-- 10_state.md R38, 70_reset_and_hazards.md R270: MODE, STATUS, ERR_*, RES_* as the spec states them; the
unspecified registers, C, the cache and the two model fields as log 5, log 2 and log 7 name them; cfg as the spec's
defaults (log 8, log 9). -/
def State.reset : State where
  cfg         := Config.default
  cache       := Vector.replicate 64 ⟨0, 0, 0, 0⟩
  px          := ⟨0, 0, 0, 0⟩
  run         := 0
  cur         := 0
  pos         := 0
  w           := 0
  h           := 0
  c           := .three
  n           := 0
  cdl         := 0
  mode        := .idle
  argWidth    := 0
  argHeight   := 0
  argChannels := 0
  argSrcLen   := 0
  status      := { busy := false, done := false, err := false, underrun := false }
  errClass    := 0
  errCause    := 0
  resWidth    := 0
  resHeight   := 0
  resLen      := 0
  src         := []
  dst         := []
  inbox       := []
  freeCtr     := 0

end Sys2Proof.Machine
end

