-- ==== Sys2Proof/Machine/Flags.lean ====
section
/-! DEFINITION. The four STATUS flags (10_state.md R28). No opcode sets or tests a flag. -/

namespace Sys2Proof.Machine

/-- `STATUS <- {BUSY}` of both START steps (R141, R181). -/
def Status.started : Status := { busy := true, done := false, err := false, underrun := false }

/-- `STATUS <- {DONE} plus UNDERRUN if it was set` (R196); an encode pass never sets UNDERRUN (R157). -/
def Status.finished (underrun : Bool) : Status := { busy := false, done := true, err := false, underrun := underrun }

/-- 60_exceptions.md R245: BUSY and DONE fall, ERR rises, UNDERRUN keeps its value. -/
def Status.raised (st : Status) : Status := { busy := false, done := false, err := true, underrun := st.underrun }

/-- R193: the exhausted path was taken. -/
def Status.markUnderrun (st : Status) : Status := { st with underrun := true }

/-- R28, R247: the acceptance of a command clears ERR, DONE and UNDERRUN. DEDUCED, log 10. -/
def Status.accepted (st : Status) : Status := { busy := st.busy, done := false, err := false, underrun := false }

end Sys2Proof.Machine
end

