-- ==== Sys2Proof/WellFormed.lean ====
section
/-! DEFINITION. Which instructions have an encoding: the operand ranges of 30_encoding.md R88, R89, R94. -/

namespace Sys2Proof

/-- `lo ≤ d ≤ hi`: the range of a biased field (R88). -/
def inRange (lo hi d : Int) : Bool := decide (lo ≤ d) && decide (d ≤ hi)

/-- The operand ranges of R94. A slot and a literal are in range by their types; a command has no operand. -/
def Instr.wf : Instr → Bool
  | .index _ => true
  | .run8 n => decide (1 ≤ n) && decide (n ≤ Config.run8Max)
  | .run16 n => decide (Config.run8Max < n) && decide (n ≤ Config.runMax)
  | .diff8 dr dg db => inRange (-1) 2 dr && inRange (-1) 2 dg && inRange (-1) 2 db
  | .diff16 dr dg db => inRange (-15) 16 dr && inRange (-7) 8 dg && inRange (-7) 8 db
  | .diff24 dr dg db da =>
      inRange (-15) 16 dr && inRange (-15) 16 dg && inRange (-15) 16 db && inRange (-15) 16 da
  | .color _ _ _ _ => true
  | .encodeCmd => true
  | .decodeCmd => true

/-- The seven stream opcodes, as against the two commands (44_commands.md R224). -/
def Instr.isChunk : Instr → Bool
  | .index _ => true
  | .run8 _ => true
  | .run16 _ => true
  | .diff8 _ _ _ => true
  | .diff16 _ _ _ => true
  | .diff24 _ _ _ _ => true
  | .color _ _ _ _ => true
  | .encodeCmd => false
  | .decodeCmd => false

end Sys2Proof
end

