-- ==== Sys2Proof/Decode.lean ====
section
/-! DEFINITION. Bytes to instructions (30_encoding.md R77 to R93, 43_chunk_decoder.md R182, R184), and back. -/

namespace Sys2Proof

/-- Why bytes or a CMD value are no instruction. -/
inductive DecodeReject where
  /-- There is no opcode byte. -/
  | noOpcodeByte
  /-- The bytes end inside a chunk. -/
  | operandMissing
  /-- A CMD value other than 1 and 2 (44_commands.md R224). -/
  | unknownCommand (value : BitVec 32)
deriving DecidableEq, Repr

/-- R86: the number of literal bytes of a COLOR, the popcount of the low four bits of its first byte. -/
def literalCount (b1 : Byte) : Nat :=
  (b1.getLsbD 3).toNat + (b1.getLsbD 2).toNat + (b1.getLsbD 1).toNat + (b1.getLsbD 0).toNat

/-- R87: the length of a chunk from its first byte alone. -/
def opLength (t : Tags) (b1 : Byte) : Nat :=
  if b1 &&& Config.mask2 = t.index ∨ b1 &&& Config.mask2 = t.diff8 ∨ b1 &&& Config.mask3 = Config.tagRun8 then 1
  else if b1 &&& Config.mask3 = t.run16 ∨ b1 &&& Config.mask3 = t.diff16 then 2
  else if b1 &&& Config.mask4 = t.diff24 then 3
  else 1 + literalCount b1

/-- R88: the delta a biased field stands for. -/
def unbias {w : Nat} (bias : Int) (field : BitVec w) : Int := (field.toNat : Int) - bias

/-- R81: run length of a RUN_8, field plus one (R89). -/
def decodeRun8 (b1 : Byte) : Instr := .run8 ((b1.extractLsb' 0 5).toNat + 1)

/-- R82: run length of a RUN_16, the 13-bit value plus 33 (R89). -/
def decodeRun16 (b1 b2 : Byte) : Instr := .run16 ((b1.extractLsb' 0 5 ++ b2).toNat + 33)

/-- R83: pattern `10rrggbb`, bias 1. -/
def decodeDiff8 (b1 : Byte) : Instr :=
  .diff8 (unbias 1 (b1.extractLsb' 4 2)) (unbias 1 (b1.extractLsb' 2 2)) (unbias 1 (b1.extractLsb' 0 2))

/-- R84: pattern `110rrrrr ggggbbbb`, bias 15 for r and 7 for g and b. -/
def decodeDiff16 (b1 b2 : Byte) : Instr :=
  .diff16 (unbias 15 (b1.extractLsb' 0 5)) (unbias 7 (b2.extractLsb' 4 4)) (unbias 7 (b2.extractLsb' 0 4))

/-- R85: with `v = b1 << 16 | b2 << 8 | b3`, the fields v[19:15], v[14:10], v[9:5], v[4:0], bias 15. -/
def decodeDiff24 (b1 b2 b3 : Byte) : Instr :=
  .diff24 (unbias 15 ((b1 ++ b2 ++ b3).extractLsb' 15 5)) (unbias 15 ((b1 ++ b2 ++ b3).extractLsb' 10 5))
    (unbias 15 ((b1 ++ b2 ++ b3).extractLsb' 5 5)) (unbias 15 ((b1 ++ b2 ++ b3).extractLsb' 0 5))

/-- R86: one literal byte if the flag is set, nothing otherwise. -/
def takeLiteral : Bool → List Byte → Except DecodeReject (Option Byte × List Byte)
  | false, rest => .ok (none, rest)
  | true, [] => .error .operandMissing
  | true, v :: rest => .ok (some v, rest)

/-- R86, R191: the literals of the flagged channels in the order r, g, b, a. -/
def decodeColor (b1 : Byte) (rest : List Byte) : Except DecodeReject (Instr × List Byte) :=
  match takeLiteral (b1.getLsbD 3) rest with
  | .error e => .error e
  | .ok (r, rest) =>
    match takeLiteral (b1.getLsbD 2) rest with
    | .error e => .error e
    | .ok (g, rest) =>
      match takeLiteral (b1.getLsbD 1) rest with
      | .error e => .error e
      | .ok (b, rest) =>
        match takeLiteral (b1.getLsbD 0) rest with
        | .error e => .error e
        | .ok (a, rest) => .ok (.color r g b a, rest)

/-- One chunk off the front of a list of stream bytes, and the bytes after it. Tests in the order of R90 and R182;
no opcode byte is illegal (R91), so the only rejections are lists that end too soon. -/
def decodeChunk (t : Tags) : List Byte → Except DecodeReject (Instr × List Byte)
  | [] => .error .noOpcodeByte
  | b1 :: rest =>
    if b1 &&& Config.mask2 = t.index then .ok (.index (b1.extractLsb' 0 6).toFin, rest)
    else if b1 &&& Config.mask2 = t.diff8 then .ok (decodeDiff8 b1, rest)
    else if b1 &&& Config.mask3 = Config.tagRun8 then .ok (decodeRun8 b1, rest)
    else if b1 &&& Config.mask3 = t.run16 then
      match rest with
      | b2 :: rest => .ok (decodeRun16 b1 b2, rest)
      | [] => .error .operandMissing
    else if b1 &&& Config.mask3 = t.diff16 then
      match rest with
      | b2 :: rest => .ok (decodeDiff16 b1 b2, rest)
      | [] => .error .operandMissing
    else if b1 &&& Config.mask4 = t.diff24 then
      match rest with
      | b2 :: b3 :: rest => .ok (decodeDiff24 b1 b2 b3, rest)
      | [_] => .error .operandMissing
      | [] => .error .operandMissing
    else decodeColor b1 rest

/-- 10_state.md R31: "the whole value is compared"; 1 is ENCODE, 2 is DECODE, every other value is no command. -/
def decodeCommand (v : BitVec 32) : Except DecodeReject Instr :=
  if v = 1 then .ok .encodeCmd else if v = 2 then .ok .decodeCmd else .error (.unknownCommand v)

/-! The encoder, from the same tables. -/

/-- What an instruction is written as: bytes of the stream, or a value of CMD. -/
inductive Code where
  | stream (bytes : List Byte)
  | command (value : BitVec 32)
deriving DecidableEq, Repr

/-- R88: the unsigned field of `w` bits that carries a delta. -/
def biased (w : Nat) (bias d : Int) : BitVec w := BitVec.ofInt w (d + bias)

/-- R81: `TAG_RUN_8 | (n - 1)`. -/
def encodeRun8 (n : Nat) : List Byte := [Config.tagRun8 ||| (BitVec.ofNat 5 (n - 1)).setWidth 8]

/-- R82: `v = n - 33` in 13 bits, high five bits after the tag, then the low byte. -/
def encodeRun16 (t : Tags) (n : Nat) : List Byte :=
  [t.run16 ||| ((BitVec.ofNat 13 (n - 33)).extractLsb' 8 5).setWidth 8, (BitVec.ofNat 13 (n - 33)).extractLsb' 0 8]

/-- R83: `TAG_DIFF_8 | (dr+1)<<4 | (dg+1)<<2 | (db+1)`. -/
def encodeDiff8 (t : Tags) (dr dg db : Int) : List Byte :=
  [t.diff8 ||| (biased 2 1 dr ++ biased 2 1 dg ++ biased 2 1 db).setWidth 8]

/-- R84: `TAG_DIFF_16 | (dr+15)`, then `(dg+7)<<4 | (db+7)`. -/
def encodeDiff16 (t : Tags) (dr dg db : Int) : List Byte :=
  [t.diff16 ||| (biased 5 15 dr).setWidth 8, biased 4 7 dg ++ biased 4 7 db]

/-- R85: the 20 bits R5 ++ G5 ++ B5 ++ A5 after the tag. -/
def diff24Fields (dr dg db da : Int) : BitVec 20 := biased 5 15 dr ++ biased 5 15 dg ++ biased 5 15 db ++ biased 5 15 da

/-- R85: four bits after the tag, then two whole bytes, most significant first. -/
def encodeDiff24 (t : Tags) (dr dg db da : Int) : List Byte :=
  [t.diff24 ||| ((diff24Fields dr dg db da).extractLsb' 16 4).setWidth 8,
   (diff24Fields dr dg db da).extractLsb' 8 8, (diff24Fields dr dg db da).extractLsb' 0 8]

/-- R86: the flag bits, r in bit 3 down to a in bit 0. -/
def colorFlags (r g b a : Option Byte) : BitVec 4 :=
  BitVec.ofBool r.isSome ++ BitVec.ofBool g.isSome ++ BitVec.ofBool b.isSome ++ BitVec.ofBool a.isSome

/-- R86: `TAG_COLOR | flags`, then the flagged literals in the order r, g, b, a. -/
def encodeColor (t : Tags) (r g b a : Option Byte) : List Byte :=
  (t.color ||| (colorFlags r g b a).setWidth 8) :: (r.toList ++ g.toList ++ b.toList ++ a.toList)

/-- The words of an instruction (R80 to R86; the CMD values of R220 and R221). -/
def encode (t : Tags) : Instr → Code
  | .index s => .stream [t.index ||| BitVec.ofNat 8 s.val]
  | .run8 n => .stream (encodeRun8 n)
  | .run16 n => .stream (encodeRun16 t n)
  | .diff8 dr dg db => .stream (encodeDiff8 t dr dg db)
  | .diff16 dr dg db => .stream (encodeDiff16 t dr dg db)
  | .diff24 dr dg db da => .stream (encodeDiff24 t dr dg db da)
  | .color r g b a => .stream (encodeColor t r g b a)
  | .encodeCmd => .command 1
  | .decodeCmd => .command 2

/-- The stream bytes of a code; a command has none. -/
def Code.bytes : Code → List Byte
  | .stream bs => bs
  | .command _ => []

/-- The bytes of a chunk, none for a command. -/
def chunkBytes (t : Tags) (i : Instr) : List Byte := (encode t i).bytes

/-- The whole of a code as one instruction; bytes left over make it none. -/
def decode (t : Tags) : Code → Option Instr
  | .stream bs =>
    match decodeChunk t bs with
    | .ok (i, []) => some i
    | .ok (_, _ :: _) => none
    | .error _ => none
  | .command v =>
    match decodeCommand v with
    | .ok i => some i
    | .error _ => none

/-! The numbering of spec/opcode_table.json. -/

/-- Byte `k` of a table word: bits 8k+7 to 8k, the first byte least significant. -/
def tableByte (w k : Nat) : Byte := BitVec.ofNat 8 (w >>> (8 * k))

/-- The longest chunk has five bytes (R87); the bits above the row's are 0. -/
def tableBytes (nbits w : Nat) : List Byte :=
  [tableByte (w % 2 ^ nbits) 0, tableByte (w % 2 ^ nbits) 1, tableByte (w % 2 ^ nbits) 2,
   tableByte (w % 2 ^ nbits) 3, tableByte (w % 2 ^ nbits) 4]

/-- The rows ENCODE and DECODE are 32-bit values of CMD; the only chunk of 32 bits is a COLOR with three
literals. DESIGN CHOICE, log 18. -/
def isCommandWord (nbits w : Nat) : Bool :=
  decide (nbits = 32) && decide (opLength Tags.default (tableByte w 0) ≠ 4)

/-- The instruction the decoder reads from a word numbered as spec/opcode_table.json numbers it. -/
def decodeTableWord (nbits w : Nat) : Option Instr :=
  if isCommandWord nbits w then
    match decodeCommand (BitVec.ofNat 32 w) with
    | .ok i => some i
    | .error _ => none
  else
    match decodeChunk Tags.default (tableBytes nbits w) with
    | .ok (i, _) => some i
    | .error _ => none

end Sys2Proof
end

