-- ==== Sys2Proof/Machine/Operands.lean ====
section
/-! DEFINITION. Operand and field arithmetic: channels, deltas, wraparound, big-endian integers. -/

namespace Sys2Proof.Machine

/-- 00_scope.md R10: x modulo 256 in 0..255. -/
def wrap8 (x : Int) : Byte := BitVec.ofInt 8 x

/-- 43_chunk_decoder.md R188: the new channel, `wrap8(old + delta)`. -/
def addDelta (old : Byte) (d : Int) : Byte := wrap8 ((old.toNat : Int) + d)

/-- R188 to R190: the four channels one by one. -/
def addDeltas (p : Pixel) (dr dg db da : Int) : Pixel :=
  ⟨addDelta p.r dr, addDelta p.g dg, addDelta p.b db, addDelta p.a da⟩

/-- 42_chunk_encoder.md R150: plain integer subtraction, in -255..255. -/
def delta (new old : Byte) : Int := (new.toNat : Int) - (old.toNat : Int)

/-- 43_chunk_decoder.md R191: a flagged channel takes its literal, an unflagged one keeps its value. -/
def setLiterals (p : Pixel) (r g b a : Option Byte) : Pixel :=
  ⟨r.getD p.r, g.getD p.g, b.getD p.b, a.getD p.a⟩

/-- The number of bytes of a pixel in the pixel buffer (20_memory.md R52). -/
def Channels.count : Channels → Nat
  | .three => 3
  | .four => 4

/-- ARG_CHANNELS: "legal 3 or 4" (10_state.md R30). -/
def Channels.ofArg (v : BitVec 32) : Option Channels :=
  if v = 3 then some .three else if v = 4 then some .four else none

/-- 20_memory.md R52: the bytes of a pixel in the pixel buffer, r, g, b and, with four channels, a. -/
def pixelBytes : Channels → Pixel → List Byte
  | .three, p => [p.r, p.g, p.b]
  | .four, p => [p.r, p.g, p.b, p.a]

/-- 42_chunk_encoder.md R142: the pixel of three or four buffer bytes; alpha is 255 with three. -/
def pixelOfBytes : List Byte → Option Pixel
  | [r, g, b] => some ⟨r, g, b, 255⟩
  | [r, g, b, a] => some ⟨r, g, b, a⟩
  | _ => none

/-- 00_scope.md R12 `be16`: most significant byte first. -/
def be16 (v : BitVec 16) : List Byte := [v.extractLsb' 8 8, v.extractLsb' 0 8]

/-- R12 `be32`. -/
def be32 (v : BitVec 32) : List Byte :=
  [v.extractLsb' 24 8, v.extractLsb' 16 8, v.extractLsb' 8 8, v.extractLsb' 0 8]

/-- R12 `from_be`, with the value of the bytes before as accumulator. -/
def fromBeAcc : Nat → List Byte → Nat
  | acc, [] => acc
  | acc, v :: vs => fromBeAcc (256 * acc + v.toNat) vs

/-- R12 `from_be`. -/
def fromBe (bs : List Byte) : Nat := fromBeAcc 0 bs

end Sys2Proof.Machine
end

