-- ==== Sys2Proof/Machine/Ops.lean ====
section
/-! DEFINITION. The named operations on the state: the Color Cache (40_color_cache.md), the cursor, the two buffers,
pass initialisation (70_reset_and_hazards.md R271) and error entry (60_exceptions.md R245). -/

namespace Sys2Proof.Machine

/-! The Color Cache. -/

/-- R110: the XOR of the four channels modulo 64, its low six bits. -/
def hash (p : Pixel) : Fin 64 := ((p.r ^^^ p.g ^^^ p.b ^^^ p.a).extractLsb' 0 6).toFin

/-- R111: the content of a slot; there is no validity flag (R115). -/
def cacheLookup (cache : Vector Pixel 64) (i : Fin 64) : Pixel := cache[i.val]

/-- R112: the slot of the pixel's hash holds exactly this pixel. -/
def cacheMatch (cache : Vector Pixel 64) (p : Pixel) : Bool := decide (cacheLookup cache (hash p) = p)

/-- R113: the slot of the pixel's hash is overwritten. -/
def cacheUpdate (cache : Vector Pixel 64) (p : Pixel) : Vector Pixel 64 := cache.set (hash p).val p

/-- R114: all 64 slots hold (0,0,0,0). -/
def cacheClear : Vector Pixel 64 := Vector.replicate 64 Config.slotInit

/-! Working registers. -/

/-- 10_state.md R26: `CUR <- CUR + k`. -/
def State.advance (s : State) (k : Nat) : State := { s with cur := s.cur + BitVec.ofNat 64 k }

/-- `PX <- p`. -/
def State.setPx (s : State) (p : Pixel) : State := { s with px := p }

/-- `RUN <- v`. -/
def State.setRun (s : State) (v : BitVec 14) : State := { s with run := v }

/-- `PX <- p`, then `CACHE[hash(PX)] <- PX`: the new pixel is hashed (43_chunk_decoder.md R192). -/
def State.record (s : State) (p : Pixel) : State := { s with px := p, cache := cacheUpdate s.cache p }

/-! The buffers. -/

/-- 20_memory.md R53: the stream offset the cursor designates. -/
def State.cursorOffset (s : State) : Nat := Config.headerLen + s.cur.toNat

/-- R52: the offset of pixel POS in the pixel buffer. -/
def State.pixelOffset (s : State) : Nat := s.pos.toNat * s.c.count

/-- 42_chunk_encoder.md R141 `emit`, for a sequence of bytes: `DST[12 + CUR] <- b; CUR <- CUR + 1` for each. -/
def State.emit (s : State) (bs : List Byte) : State :=
  { s with dst := s.dst.writeBytes s.cursorOffset bs, cur := s.cur + BitVec.ofNat 64 bs.length }

/-- R142: the pixel at POS, none where SRC lacks one of its bytes. -/
def State.loadPixel (s : State) : Option Pixel :=
  match s.src.readBytes s.pixelOffset s.c.count with
  | none => none
  | some bs => pixelOfBytes bs

/-- 43_chunk_decoder.md R194 with the `POS <- POS + 1` of R182. -/
def State.storePixel (s : State) : State :=
  { s with dst := s.dst.writeBytes s.pixelOffset (pixelBytes s.c s.px), pos := s.pos + 1 }

/-! Errors. -/

/-- 60_exceptions.md R241. -/
inductive InvalidCause where
  | badWidth
  | badHeight
  | badChannels
  | shortPixelBuffer
  | bodyTooLong
  | badCommand
deriving DecidableEq, Repr

/-- 60_exceptions.md R242. -/
inductive FormatCause where
  | badChannels
  | shortBuffer
  | badMagic
  | zeroDimension
  | lengthMismatch
  | truncated
deriving DecidableEq, Repr

/-- 60_exceptions.md R240: the two classes. -/
inductive CodecError where
  | invalidArgument (cause : InvalidCause)
  | formatError (cause : FormatCause)
deriving DecidableEq, Repr

/-- R241: the codes 1 to 6. -/
def InvalidCause.code : InvalidCause → Nat
  | .badWidth => 1
  | .badHeight => 2
  | .badChannels => 3
  | .shortPixelBuffer => 4
  | .bodyTooLong => 5
  | .badCommand => 6

/-- R242: the codes 1 to 6. -/
def FormatCause.code : FormatCause → Nat
  | .badChannels => 1
  | .shortBuffer => 2
  | .badMagic => 3
  | .zeroDimension => 4
  | .lengthMismatch => 5
  | .truncated => 6

/-- R240: ERR_CLASS is 1 for InvalidArgument, 2 for FormatError. -/
def CodecError.classCode : CodecError → Nat
  | .invalidArgument _ => 1
  | .formatError _ => 2

/-- ERR_CAUSE. -/
def CodecError.causeCode : CodecError → Nat
  | .invalidArgument cause => cause.code
  | .formatError cause => cause.code

/-- R245, the one way an error is entered: ERR_CLASS, ERR_CAUSE, STATUS and MODE; nothing is saved, nothing is
vectored. There is no return from it (R247): the next accepted command leaves MODE = ERROR. -/
def State.raise (s : State) (e : CodecError) : State :=
  { s with
    errClass := e.classCode
    errCause := e.causeCode
    status := s.status.raised
    mode := .error }

/-! The beginning of a pass. -/

/-- R28, R247: what an accepted command clears before its START step validates. Log 10. -/
def State.accept (s : State) : State := { s with status := s.status.accepted }

/-- 10_state.md R38: RES_* are unspecified from START to FINISH, so they take free values. Log 7. -/
def State.freeResults (s : State) : State :=
  { s with
    resWidth := (Config.freeValue s.freeCtr).setWidth 16
    resHeight := (Config.freeValue (s.freeCtr + 1)).setWidth 16
    resLen := Config.freeValue (s.freeCtr + 2)
    freeCtr := s.freeCtr + 3 }

/-- 70_reset_and_hazards.md R271, the part both START steps share: the cache, PX, RUN, CUR, POS, W, H, C, N and
STATUS. -/
def State.initPass (s : State) (m : Mode) (w h : BitVec 16) (c : Channels) : State :=
  { s.freeResults with
    cache := cacheClear
    px := Config.pxInit
    run := 0
    cur := 0
    pos := 0
    w := w
    h := h
    c := c
    n := BitVec.ofNat 32 (w.toNat * h.toNat)
    status := Status.started
    mode := m }

end Sys2Proof.Machine
end

