-- ==== Sys2Proof/Machine/Color.lean ====
section
/-! DEFINITION. The meaning of COLOR. -/

namespace Sys2Proof.Machine

/-- 43_chunk_decoder.md R191: the flagged channels take their literals; the cache is written even where no channel
is flagged (R192). -/
def execColor (r g b a : Option Byte) (s : State) : Host.Outcome State Fault Refusal :=
  .next ((s.advance (Instr.color r g b a).size).record (setLiterals s.px r g b a))

end Sys2Proof.Machine
end

