-- ==== Sys2Proof/Machine/Header.lean ====
section
/-! DEFINITION. The Header Codec (41_header_codec.md). -/

namespace Sys2Proof.Machine

/-- 30_encoding.md R75: the fields of the frame header. -/
structure Header where
  width      : BitVec 16
  height     : BitVec 16
  bodyLength : BitVec 32
deriving DecidableEq, Repr

/-- R125: magic, width, height, body_length, all big-endian; the operand types are those R126 asks for. -/
def writeHeader (hd : Header) : List Byte :=
  Config.magic ++ be16 hd.width ++ be16 hd.height ++ be32 hd.bodyLength

/-- R75: the fields of the header bytes. -/
def parseFields (w h l : List Byte) : Header :=
  ⟨BitVec.ofNat 16 (fromBe w), BitVec.ofNat 16 (fromBe h), BitVec.ofNat 32 (fromBe l)⟩

/-- R127, the checks after the magic in the order of R128; the sum does not wrap. -/
def checkFields (hd : Header) (len : Nat) : Except FormatCause Header :=
  if hd.width = 0 ∨ hd.height = 0 then .error .zeroDimension
  else if hd.bodyLength.toNat + Config.headerLen ≠ len then .error .lengthMismatch
  else .ok hd

/-- R127: a header, a FormatError cause, or nothing where SRC lacks a byte that is read. -/
def readHeader (src : Memory) (len : Nat) : Option (Except FormatCause Header) :=
  if len < Config.headerLen then some (.error .shortBuffer)
  else
    match src.readBytes 0 4 with
    | none => none
    | some m =>
      if m ≠ Config.magic then some (.error .badMagic)
      else
        match src.readBytes 4 2, src.readBytes 6 2, src.readBytes 8 4 with
        | some w, some h, some l => some (checkFields (parseFields w h l) len)
        | _, _, _ => none

end Sys2Proof.Machine
end

