-- ==== Sys2Proof/Machine/Commands.lean ====
section
/-! DEFINITION. The meanings of ENCODE and DECODE: the START steps (42_chunk_encoder.md R141, 43_chunk_decoder.md R181).
The PIXEL and FINISH steps they begin are in Machine/Encoder.lean and Machine/Decoder.lean. -/

namespace Sys2Proof.Machine

/-- "legal 1..65535, every other value is an InvalidArgument" (10_state.md R30). -/
def dimensionLegal (v : BitVec 32) : Bool := decide (1 ≤ v.toNat) && decide (v.toNat ≤ Config.dimMax)

/-- R141, R244: the four checks in order; the channel count where all pass. The product does not wrap. -/
def encodeCheck (s : State) : Except InvalidCause Channels :=
  if dimensionLegal s.argWidth = false then .error .badWidth
  else if dimensionLegal s.argHeight = false then .error .badHeight
  else
    match Channels.ofArg s.argChannels with
    | none => .error .badChannels
    | some c =>
      if s.argSrcLen.toNat < s.argWidth.toNat * s.argHeight.toNat * c.count then .error .shortPixelBuffer
      else .ok c

/-- R141 after the checks: pass initialisation and the header with a placeholder length of 0. -/
def encodeBegin (c : Channels) (s : State) : State :=
  let t := s.initPass .enc (s.argWidth.setWidth 16) (s.argHeight.setWidth 16) c
  { t with dst := t.dst.writeBytes 0 (writeHeader ⟨t.w, t.h, 0⟩) }

/-- ENCODE (44_commands.md R220): ignored while BUSY (R223); otherwise accepted, and its START step runs. -/
def execEncode (s : State) : Host.Outcome State Fault Refusal :=
  if s.status.busy then .next s
  else
    match encodeCheck s with
    | .error cause => .next (s.accept.raise (.invalidArgument cause))
    | .ok c => .next (encodeBegin c s.accept)

/-- 43_chunk_decoder.md R198: `max(body_length - 4, 0)`. -/
def chunkDataLength (bodyLength : BitVec 32) : BitVec 64 := BitVec.ofNat 64 (bodyLength.toNat - Config.padLen)

/-- R181, R244: the channel check, then `read_header`. Nothing where SRC lacks a header byte that is read. -/
def decodeCheck (s : State) : Option (Except FormatCause (Channels × Header)) :=
  match Channels.ofArg s.argChannels with
  | none => some (.error .badChannels)
  | some c =>
    match readHeader s.src s.argSrcLen.toNat with
    | none => none
    | some (.error cause) => some (.error cause)
    | some (.ok hd) => some (.ok (c, hd))

/-- R181 after the checks; DST is not written. -/
def decodeBegin (c : Channels) (hd : Header) (s : State) : State :=
  { s.initPass .dec hd.width hd.height c with cdl := chunkDataLength hd.bodyLength }

/-- DECODE (44_commands.md R221): ignored while BUSY (R223); otherwise accepted, and its START step runs. -/
def execDecode (s : State) : Host.Outcome State Fault Refusal :=
  if s.status.busy then .next s
  else
    match decodeCheck s with
    | none => .fault .srcUnfilled
    | some (.error cause) => .next (s.accept.raise (.formatError cause))
    | some (.ok (c, hd)) => .next (decodeBegin c hd s.accept)

end Sys2Proof.Machine
end

