-- ==== Sys2Proof/Machine/Diffs.lean ====
section
/-! DEFINITION. The meanings of DIFF_8, DIFF_16 and DIFF_24: deltas added with 8-bit wraparound, then the cache write
of R192. -/

namespace Sys2Proof.Machine

/-- 43_chunk_decoder.md R188; alpha unchanged. -/
def execDiff8 (dr dg db : Int) (s : State) : Host.Outcome State Fault Refusal :=
  .next ((s.advance 1).record (addDeltas s.px dr dg db 0))

/-- 43_chunk_decoder.md R189; alpha unchanged. -/
def execDiff16 (dr dg db : Int) (s : State) : Host.Outcome State Fault Refusal :=
  .next ((s.advance 2).record (addDeltas s.px dr dg db 0))

/-- 43_chunk_decoder.md R190. -/
def execDiff24 (dr dg db da : Int) (s : State) : Host.Outcome State Fault Refusal :=
  .next ((s.advance 3).record (addDeltas s.px dr dg db da))

end Sys2Proof.Machine
end

