-- ==== Sys2Proof/Machine/Index.lean ====
section
/-! DEFINITION. The meaning of INDEX. -/

namespace Sys2Proof.Machine

/-- 43_chunk_decoder.md R185: `PX <- CACHE[slot]`, all four channels; the cache is not written. -/
def execIndex (slot : Fin 64) (s : State) : Host.Outcome State Fault Refusal :=
  .next ((s.advance 1).setPx (cacheLookup s.cache slot))

end Sys2Proof.Machine
end

