-- ==== Sys2Proof/Machine/Runs.lean ====
section
/-! DEFINITION. The meanings of RUN_8 and RUN_16. The operand is the number of pixels the chunk covers; RUN takes the
repeats still owed after the present one (30_encoding.md R89). -/

namespace Sys2Proof.Machine

/-- 43_chunk_decoder.md R186: the field, n - 1, is loaded as it is. PX and the cache are unchanged. -/
def execRun8 (n : Nat) (s : State) : Host.Outcome State Fault Refusal :=
  .next ((s.advance 1).setRun (BitVec.ofNat 14 (n - 1)))

/-- 43_chunk_decoder.md R187: the 13-bit field, n - 33, plus 32. -/
def execRun16 (n : Nat) (s : State) : Host.Outcome State Fault Refusal :=
  .next ((s.advance 2).setRun (BitVec.ofNat 14 (n - 33 + 32)))

end Sys2Proof.Machine
end

