-- ==== Sys2Proof/Machine/Dispatch.lean ====
section
/-! DEFINITION. One arm per constructor of Instr. -/

namespace Sys2Proof.Machine

def exec (i : Instr) (s : State) : Host.Outcome State Fault Refusal :=
  match i with
  | .index slot => Sys2Proof.Machine.execIndex slot s
  | .run8 n => Sys2Proof.Machine.execRun8 n s
  | .run16 n => Sys2Proof.Machine.execRun16 n s
  | .diff8 dr dg db => Sys2Proof.Machine.execDiff8 dr dg db s
  | .diff16 dr dg db => Sys2Proof.Machine.execDiff16 dr dg db s
  | .diff24 dr dg db da => Sys2Proof.Machine.execDiff24 dr dg db da s
  | .color r g b a => Sys2Proof.Machine.execColor r g b a s
  | .encodeCmd => Sys2Proof.Machine.execEncode s
  | .decodeCmd => Sys2Proof.Machine.execDecode s

end Sys2Proof.Machine
end

