-- ==== Sys2Proof/Machine/Decoder.lean ====
section
/-! DEFINITION. The Chunk Decoder around its opcodes: fetch, run hold, exhausted path, pixel store, FINISH
(43_chunk_decoder.md R182 to R184, R193 to R197). -/

namespace Sys2Proof.Machine

/-- R184, R87: the bytes of the chunk at the cursor, the first one fixing how many. Nothing where SRC lacks one. -/
def State.fetchBytes (s : State) : Option (List Byte) :=
  match s.src.read s.cursorOffset with
  | none => none
  | some b1 => s.src.readBytes s.cursorOffset (opLength s.cfg.tags b1)

/-- R184: the instruction at the cursor. -/
def State.fetchChunk (s : State) : Option Instr :=
  match s.fetchBytes with
  | none => none
  | some bs =>
    match decodeChunk s.cfg.tags bs with
    | .ok (i, _) => some i
    | .error _ => none

/-- R183 with the store of R194. -/
def State.runHold (s : State) : State := (s.setRun (s.run - 1)).storePixel

/-- R193, R197: UNDERRUN, then the error or the store of the unchanged pixel. -/
def State.exhausted (s : State) : State :=
  let t := { s with status := s.status.markUnderrun }
  if s.cfg.strictTruncation then t.raise (.formatError .truncated) else t.storePixel

/-- R182: the rest of a PIXEL step after its opcode. -/
def completePixel (o : Host.Outcome State Fault Refusal) : Host.Outcome State Fault Refusal :=
  match o with
  | .next s => .next s.storePixel
  | .fault r => .fault r
  | .refused r => .refused r

/-- R196: the decoder FINISH step; a pending run and unread chunk bytes are dropped. -/
def decFinish (s : State) : State :=
  { s with
    resWidth := s.w
    resHeight := s.h
    resLen := BitVec.ofNat 64 (s.n.toNat * s.c.count)
    status := Status.finished s.status.underrun
    mode := .done }

/-! A decode pass that is due to fetch, for `State.withFetchWord`. -/

/-- The state as it stands where its next own step fetches a chunk; else with what that takes: MODE = DEC, BUSY, no run
pending, a pixel left to produce, the cursor inside the chunk region. The host lets the block run. Log 4. -/
def State.atChunkFetch (s : State) : State :=
  let t := { s with inbox := .letRun :: s.inbox, mode := .dec, status := Status.started, run := 0 }
  let t := if s.pos < s.n then t else { t with pos := 0, n := 1, w := 1, h := 1 }
  if s.cur < s.cdl then t else { t with cur := 0, cdl := 1 }

/-- Bytes of SRC from the cursor on. -/
def State.placeAtCursor (s : State) (bs : List Byte) : State :=
  { s with src := s.src.writeBytes s.cursorOffset bs }

end Sys2Proof.Machine
end

