-- ==== Sys2Proof/Machine/Encoder.lean ====
section
/-! DEFINITION. The Chunk Encoder: the PIXEL and FINISH steps of an encode pass (42_chunk_encoder.md R142 to R158). -/

namespace Sys2Proof.Machine

/-- R145, R146: the chunk of a run of n pixels. -/
def runChunk (n : Nat) : Instr := if n ≤ Config.run8Max then .run8 n else .run16 n

/-- R154: a channel carries its literal exactly when its delta is not 0. -/
def changedLiteral (new old : Byte) : Option Byte := if delta new old ≠ 0 then some new else none

/-- R151 to R154: the first of DIFF_8, DIFF_16, DIFF_24 that fits, else COLOR; `da = 0` is tested first (R287). -/
def diffChunk (px prev : Pixel) : Instr :=
  let dr := delta px.r prev.r
  let dg := delta px.g prev.g
  let db := delta px.b prev.b
  let da := delta px.a prev.a
  if da = 0 ∧ (Instr.diff8 dr dg db).wf then .diff8 dr dg db
  else if da = 0 ∧ (Instr.diff16 dr dg db).wf then .diff16 dr dg db
  else if (Instr.diff24 dr dg db da).wf then .diff24 dr dg db da
  else
    .color (changedLiteral px.r prev.r) (changedLiteral px.g prev.g) (changedLiteral px.b prev.b)
      (changedLiteral px.a prev.a)

/-- R147, R148: INDEX on a match, else a delta form. -/
def selectChunk (cache : Vector Pixel 64) (px prev : Pixel) : Instr :=
  if cacheMatch cache px then .index (hash px) else diffChunk px prev

/-- R143: the count of this step. -/
def State.countRun (s : State) (px : Pixel) : State := if px = s.px then s.setRun (s.run + 1) else s

/-- R144: a flush is due. -/
def State.flushDue (s : State) (px : Pixel) : Bool :=
  decide (s.run ≠ 0) &&
    (decide (s.run.toNat = Config.runMax) || decide (px ≠ s.px) || decide (s.pos.toNat + 1 = s.n.toNat))

/-- R144: the flush, before the selection (70 R282). -/
def State.flushRun (s : State) (px : Pixel) : State :=
  if s.flushDue px then (s.emit (chunkBytes s.cfg.tags (runChunk s.run.toNat))).setRun 0 else s

/-- R147 to R149: one chunk for a pixel that differs; the cache is read for the match before it is written (70 R281),
and on a match the slot already holds the pixel. -/
def State.selectAndEmit (s : State) (px : Pixel) : State :=
  if px = s.px then s
  else
    let t := s.emit (chunkBytes s.cfg.tags (selectChunk s.cache px s.px))
    if cacheMatch s.cache px then t else { t with cache := cacheUpdate s.cache px }

/-- R155. -/
def State.nextPixel (s : State) (px : Pixel) : State := { s with px := px, pos := s.pos + 1 }

/-- R156 once the pixel is loaded: count, flush, select, update. -/
def State.encodePixel (s : State) (px : Pixel) : State :=
  ((((s.countRun px).flushRun px).selectAndEmit px).nextPixel px)

/-- R156: the encoder PIXEL step. -/
def encPixel (s : State) : Host.Outcome State Fault Refusal :=
  match s.loadPixel with
  | none => .fault .srcUnfilled
  | some px => .next (s.encodePixel px)

/-- R157: `CUR + 4`, chunks and padding. -/
def State.bodyLength (s : State) : Nat := s.cur.toNat + Config.padLen

/-- R157, the stores: four zero bytes of padding, then the length patch at offsets 8..11. -/
def State.closeStream (s : State) : State :=
  { s with
    dst := (s.dst.writeBytes s.cursorOffset (List.replicate Config.padLen 0)).writeBytes 8
      (be32 (BitVec.ofNat 32 s.bodyLength)) }

/-- R157, R158: the encoder FINISH step. -/
def encFinish (s : State) : State :=
  if Config.bodyMax < s.bodyLength then s.raise (.invalidArgument .bodyTooLong)
  else
    { s.closeStream with
      resWidth := s.w
      resHeight := s.h
      resLen := BitVec.ofNat 64 (Config.headerLen + s.bodyLength)
      status := Status.finished false
      mode := .done }

end Sys2Proof.Machine
end

