-- ==== Sys2Proof/Machine/Sequencer.lean ====
section
/-! DEFINITION. What the next step is: a host act, or the step of the pass in progress (00_scope.md R13,
44_commands.md R222 to R224). -/

namespace Sys2Proof.Machine

/-- The work of one step: an instruction to execute at a state, or an outcome that needs none. -/
inductive Work where
  /-- A value of CMD that is a command, with the host's act taken. -/
  | command (i : Instr) (s : State)
  /-- A chunk fetched by a decoder PIXEL step. -/
  | chunk (i : Instr) (s : State)
  | result (o : Host.Outcome State Fault Refusal)

/-- R182: the three exclusive branches of a decoder PIXEL step, in order. -/
def decPixelWork (s : State) : Work :=
  if s.run ≠ 0 then .result (.next s.runHold)
  else if s.cur < s.cdl then
    match s.fetchChunk with
    | none => .result (.fault .srcUnfilled)
    | some i => .chunk i s
  else .result (.next s.exhausted)

/-- R156, R157, R182, R196: PIXEL steps while POS < N, FINISH at POS = N. In IDLE, DONE and ERROR the block does
nothing (60_exceptions.md R252; log 3). -/
def blockWork (s : State) : Work :=
  match s.mode with
  | .idle => .result (.next s)
  | .done => .result (.next s)
  | .error => .result (.next s)
  | .enc =>
    if s.pos < s.n then .result (encPixel s)
    else if s.pos = s.n then .result (.next (encFinish s))
    else .result (.fault .posPastEnd)
  | .dec =>
    if s.pos < s.n then decPixelWork s
    else if s.pos = s.n then .result (.next (decFinish s))
    else .result (.fault .posPastEnd)

/-- R31, R223, R224: a write of CMD. A command is executed (and ignores itself while BUSY); any other value is ignored
while BUSY and raises BAD_COMMAND otherwise. -/
def commandWork (v : BitVec 32) (s : State) : Work :=
  match decodeCommand v with
  | .ok i => .command i s
  | .error _ =>
    if s.status.busy then .result (.next s)
    else .result (.next (s.raise (.invalidArgument .badCommand)))

/-- One act of the host; `s` is the state with the act taken from the inbox. A buffer changed while BUSY is refused
(U7, log 13); an argument register is written at any time, and a pass in progress does not read it (R30, log 12). -/
def hostWork (act : HostAct) (s : State) : Work :=
  match act with
  | .writeArgWidth v => .result (.next { s with argWidth := v })
  | .writeArgHeight v => .result (.next { s with argHeight := v })
  | .writeArgChannels v => .result (.next { s with argChannels := v })
  | .writeArgSrcLen v => .result (.next { s with argSrcLen := v })
  | .fillSrc bs =>
    if s.status.busy then .result (.refused .srcChangedWhileBusy)
    else .result (.next { s with src := Memory.ofBytes 0 bs })
  | .provideDst bs =>
    if s.status.busy then .result (.refused .dstChangedWhileBusy)
    else .result (.next { s with dst := Memory.ofBytes 0 bs })
  | .writeCmd v => commandWork v s
  | .letRun => blockWork s
  | .awaitNotBusy =>
    if s.status.busy then blockWork { s with inbox := .awaitNotBusy :: s.inbox } else .result (.next s)

/-- The next step's work: the host's next act, or with none left the block's own step. -/
def nextWork (s : State) : Work :=
  match s.inbox with
  | [] => blockWork s
  | act :: rest => hostWork act { s with inbox := rest }

end Sys2Proof.Machine
end

