-- ==== Sys2Proof/Machine/Step.lean ====
section
/-! DEFINITION. One step of the machine, and the placing of an instruction where the next step takes it. -/

namespace Sys2Proof.Machine

/-- One step: the work `nextWork` finds, with `exec` for a command or a chunk, and the rest of the PIXEL step after a
chunk (43_chunk_decoder.md R182). -/
def step (s : State) : Host.Outcome State Fault Refusal :=
  match nextWork s with
  | .command i t => exec i t
  | .chunk i t => completePixel (exec i t)
  | .result o => o

/-- The word of a row of spec/opcode_table.json where the next step takes it: a write of CMD as the host's next act,
or the bytes at the cursor of a decode pass that is due to fetch. Log 4, log 18. -/
def State.withFetchWord (s : State) (nbits w : Nat) : State :=
  if isCommandWord nbits w then { s with inbox := .writeCmd (BitVec.ofNat 32 w) :: s.inbox }
  else (s.atChunkFetch).placeAtCursor (tableBytes nbits w)

end Sys2Proof.Machine
end

