-- ==== Sys2Proof/Machine/HostView.lean ====
section
/-! DEFINITION. What the host can read (10_state.md R21, R32, R33; 20_memory.md R63; 60_exceptions.md R246). -/

namespace Sys2Proof.Machine

/-- The host's side of a command: "either the full output or the error, never both" (R246). Log 20. -/
inductive HostView where
  /-- No command accepted yet. -/
  | idle
  /-- BUSY: only STATUS may be relied on. -/
  | busy
  /-- DONE: the result registers and exactly RES_LEN bytes of DST (R227), none where one was never written. -/
  | done (width height : BitVec 16) (len : BitVec 64) (bytes : Option (List Byte)) (underrun : Bool)
  /-- ERR: the error pair. -/
  | failed (errClass errCause : Nat) (underrun : Bool)
deriving DecidableEq, Repr

/-- STATUS decides what else may be read. -/
def hostView (s : State) : HostView :=
  if s.status.busy then .busy
  else if s.status.err then .failed s.errClass s.errCause s.status.underrun
  else if s.status.done then
    .done s.resWidth s.resHeight s.resLen (s.dst.readBytes 0 s.resLen.toNat) s.status.underrun
  else .idle

end Sys2Proof.Machine
end

