-- ==== Sys2Proof/Safety.lean ====
section
/-! DEFINITION. The invariant, the preconditions and the runs that statements speak of. -/

namespace Sys2Proof.Machine

/-! The invariant. -/

/-- SRC and DST are in canonical form. -/
structure BuffersCanonical (s : State) : Prop where
  src : s.src.wf = true
  dst : s.dst.wf = true

/-- 10_state.md R28, R29: STATUS mirrors MODE, and UNDERRUN belongs to a decode pass. It outlives the pass in DONE and,
by log 11, in ERROR. -/
structure StatusMirrorsMode (s : State) : Prop where
  busy     : s.status.busy = true ↔ s.mode = .enc ∨ s.mode = .dec
  done     : s.status.done = true ↔ s.mode = .done
  err      : s.status.err = true ↔ s.mode = .error
  underrun : s.status.underrun = true → s.mode = .dec ∨ s.mode = .done ∨ s.mode = .error

/-- 10_state.md R20, R24: the latched geometry of a pass and its pixel index. -/
structure PassShape (s : State) : Prop where
  width  : 1 ≤ s.w.toNat
  height : 1 ≤ s.h.toNat
  count  : s.n.toNat = s.w.toNat * s.h.toNat
  index  : s.pos.toNat ≤ s.n.toNat

/-- 42_chunk_encoder.md R144, R156, R159: RUN on entry to a PIXEL step, RUN after the last pixel, and the bytes emitted
so far. -/
structure EncoderShape (s : State) : Prop where
  run   : s.run.toNat ≤ 8223
  last  : s.pos = s.n → s.run = 0
  upper : s.cur.toNat + s.run.toNat ≤ 5 * s.pos.toNat
  lower : 1 ≤ s.pos.toNat → 1 ≤ s.cur.toNat + s.run.toNat

/-- 10_state.md R23, R27, 43_chunk_decoder.md R198: RUN, and the cursor within the chunk region and its padding. -/
structure DecoderShape (s : State) : Prop where
  run    : s.run.toNat ≤ 8223
  cursor : s.cur.toNat ≤ s.cdl.toNat + 4
  region : s.cdl.toNat + 4 ≤ 4294967295
  empty  : s.cdl = 0 → s.cur = 0

/-- 10_state.md R33: ERR_CLASS and ERR_CAUSE hold reset's zeros or a class and a cause of 60_exceptions.md R241, R242. -/
structure ErrorCodes (s : State) : Prop where
  code  : (s.errClass = 0 ∧ s.errCause = 0) ∨
    ((s.errClass = 1 ∨ s.errClass = 2) ∧ 1 ≤ s.errCause ∧ s.errCause ≤ 6)
  error : s.mode = .error → s.errClass ≠ 0

/-- What every step keeps. -/
structure Inv (s : State) : Prop where
  buffers : BuffersCanonical s
  status  : StatusMirrorsMode s
  pass    : s.mode = .enc ∨ s.mode = .dec → PassShape s
  enc     : s.mode = .enc → EncoderShape s
  dec     : s.mode = .dec → DecoderShape s
  errors  : ErrorCodes s

/-! Preconditions. -/

/-- SRC holds a byte at each of the first n offsets: the host's duty of 70_reset_and_hazards.md R272. -/
def SrcFilled (s : State) (n : Nat) : Prop := ∀ a, a < n → (s.src.read a).isSome = true

/-- 42_chunk_encoder.md R141: the four checks of ENCODE pass. -/
structure EncodeArgsLegal (s : State) : Prop where
  width    : 1 ≤ s.argWidth.toNat ∧ s.argWidth.toNat ≤ 65535
  height   : 1 ≤ s.argHeight.toNat ∧ s.argHeight.toNat ≤ 65535
  channels : s.argChannels = 3 ∨ s.argChannels = 4
  buffer   : s.argWidth.toNat * s.argHeight.toNat * s.argChannels.toNat ≤ s.argSrcLen.toNat

/-- 43_chunk_decoder.md R181: the checks of DECODE pass on a stream that begins with this header. -/
structure DecodeArgsLegal (s : State) (hd : Header) : Prop where
  channels : s.argChannels = 3 ∨ s.argChannels = 4
  header   : s.src.readBytes 0 12 = some (writeHeader hd)
  width    : hd.width ≠ 0
  height   : hd.height ≠ 0
  length   : hd.bodyLength.toNat + 12 = s.argSrcLen.toNat

/-- 43_chunk_decoder.md R184: the host is silent, a decode pass is due to fetch, and SRC holds these bytes at the
cursor. -/
structure AtChunk (s : State) (bs : List Byte) : Prop where
  silent : s.inbox = []
  mode   : s.mode = .dec
  pixel  : s.pos < s.n
  noRun  : s.run = 0
  inside : s.cur < s.cdl
  bytes  : s.src.readBytes (12 + s.cur.toNat) bs.length = some bs

/-- The state after a command that fails in START: the error pair, STATUS = ERR, MODE = ERROR, all else as it was
(60_exceptions.md R243, R245). UNDERRUN is cleared by the acceptance of the command: the model's reading, log 10. -/
def failedStart (s : State) (errClass errCause : Nat) : State :=
  { s with
    errClass := errClass
    errCause := errCause
    status := { busy := false, done := false, err := true, underrun := false }
    mode := .error }

/-! Runs. -/

/-- k steps, stopping at the first fault or refusal. -/
def runSteps (k : Nat) (s : State) : Host.Outcome State Fault Refusal := Sys2Proof.core.run k s

/-- What the host can read after k steps; nothing where the run has stopped. -/
def viewAfter (k : Nat) (s : State) : Option HostView :=
  match runSteps k s with
  | .next t => some (hostView t)
  | .fault _ => none
  | .refused _ => none

end Sys2Proof.Machine
end

