-- ==== Sys2Proof/Certificates/Slice0/Obligations.lean ====
section
/-! DEFINITION. The statements for the provers. -/

open Sys2Proof Sys2Proof.Machine

/-! Encoding. -/

/-- Words written out from 30_encoding.md R80 to R86 and R220, R221, one for each row. The concrete bytes rest on the
default tags of R78, the spec's decision D2 (log 8, PRESUMED); that a 32-bit word is a command unless its first byte
heads a COLOR of four bytes is the model's choice (log 18). -/
def Obligations.SpecWordsDecodeAsWritten : Prop :=
  decodeTableWord 8 0b00111100 = some (.index 60) ∧
  decodeTableWord 8 0b01000010 = some (.run8 3) ∧
  decodeTableWord 16 0b00001011_01100001 = some (.run16 300) ∧
  decodeTableWord 8 0b10110001 = some (.diff8 2 (-1) 0) ∧
  decodeTableWord 16 0b11110000_11000000 = some (.diff16 (-15) 8 (-7)) ∧
  decodeTableWord 24 0b10001110_10000010_11101111 = some (.diff24 16 (-15) 5 (-1)) ∧
  decodeTableWord 24 0b10111011_10101010_11110101 = some (.color none (some 170) none (some 187)) ∧
  decodeTableWord 32 1 = some .encodeCmd ∧
  decodeTableWord 32 2 = some .decodeCmd

/-- Decoding the words of a well-formed instruction gives it back, for every assignment of the six open tags that
30_encoding.md R79 allows; a chunk is cut off the front of whatever bytes follow it. -/
def Obligations.DecodeInvertsEncode : Prop :=
  ∀ (t : Tags) (i : Instr), t.valid → i.wf = true →
    decode t (encode t i) = some i ∧
    (i.isChunk = true → ∀ rest, decodeChunk t (chunkBytes t i ++ rest) = .ok (i, rest))

/-- Every chunk has one encoding: the bytes a chunk is decoded from are the bytes it is encoded to. -/
def Obligations.EncodeInvertsDecode : Prop :=
  ∀ (t : Tags) (bs rest : List Byte) (i : Instr), t.valid → decodeChunk t bs = .ok (i, rest) →
    i.wf = true ∧ i.isChunk = true ∧ bs = chunkBytes t i ++ rest

/-- 30_encoding.md R79 (d): a prefix-free set of tags of these lengths is complete. -/
def Obligations.EveryByteCarriesExactlyOneTag : Prop :=
  ∀ (t : Tags) (b : Byte), t.valid → (t.rows.filter (fun row => Tags.rowMatches row b)).length = 1

/-- 30_encoding.md R87: the length of a chunk from its first byte alone. -/
def Obligations.FirstByteFixesChunkLength : Prop :=
  ∀ (t : Tags) (b1 : Byte) (tail rest : List Byte) (i : Instr), t.valid →
    decodeChunk t (b1 :: tail) = .ok (i, rest) →
      ((b1 &&& 0xC0 = t.index ∨ b1 &&& 0xC0 = t.diff8 ∨ b1 &&& 0xE0 = 0x40) → i.size = 1) ∧
      ((b1 &&& 0xE0 = t.run16 ∨ b1 &&& 0xE0 = t.diff16) → i.size = 2) ∧
      (b1 &&& 0xF0 = t.diff24 → i.size = 3) ∧
      (b1 &&& 0xF0 = t.color → i.size = 1 + ((b1 &&& 0x0F).toNat.bits.count true)) ∧
      1 ≤ i.size ∧ i.size ≤ 5 ∧ rest = tail.drop (i.size - 1)

/-- 30_encoding.md R91: every opcode byte, followed by enough bytes, is a chunk with operands in range. -/
def Obligations.NoOpcodeByteIsIllegal : Prop :=
  ∀ (t : Tags) (b1 : Byte) (tail : List Byte), 4 ≤ tail.length →
    ∃ i rest, decodeChunk t (b1 :: tail) = .ok (i, rest) ∧ i.wf = true ∧ i.isChunk = true

/-! The Color Cache. -/

/-- 40_color_cache.md R110. -/
def Obligations.HashIsTheXorModulo64 : Prop :=
  ∀ p : Pixel, (hash p).val = (p.r ^^^ p.g ^^^ p.b ^^^ p.a).toNat % 64

/-- 40_color_cache.md R111 to R114: lookup, match, update and clear. -/
def Obligations.CacheOperationsAddressOneSlot : Prop :=
  (∀ (cache : Vector Pixel 64) (p : Pixel) (i : Fin 64),
    cacheLookup (cacheUpdate cache p) i = if i = hash p then p else cacheLookup cache i) ∧
  (∀ (cache : Vector Pixel 64) (p : Pixel), cacheMatch cache p = true ↔ cacheLookup cache (hash p) = p) ∧
  (∀ i : Fin 64, cacheLookup cacheClear i = ⟨0, 0, 0, 0⟩)

/-! The seven opcodes: each completes, with its result and everything else unchanged. -/

/-- 43_chunk_decoder.md R185. -/
def Obligations.IndexLoadsTheSlot : Prop :=
  ∀ (slot : Fin 64) (s : State), exec (.index slot) s = .next { s with px := s.cache[slot], cur := s.cur + 1 }

/-- 43_chunk_decoder.md R186: RUN is the number of pixels covered less one. -/
def Obligations.Run8LoadsTheRun : Prop :=
  ∀ (n : Nat) (s : State), 1 ≤ n → n ≤ 32 →
    ∃ t, exec (.run8 n) s = .next t ∧ t.run.toNat = n - 1 ∧ t = { s with run := t.run, cur := s.cur + 1 }

/-- 43_chunk_decoder.md R187: RUN is v + 32 with v = n - 33. -/
def Obligations.Run16LoadsTheRun : Prop :=
  ∀ (n : Nat) (s : State), 33 ≤ n → n ≤ 8224 →
    ∃ t, exec (.run16 n) s = .next t ∧ t.run.toNat = (n - 33) + 32 ∧ t = { s with run := t.run, cur := s.cur + 2 }

/-- 43_chunk_decoder.md R188, R192. -/
def Obligations.Diff8AddsWithWraparound : Prop :=
  ∀ (dr dg db : Int) (s : State),
    ∃ t, exec (.diff8 dr dg db) s = .next t ∧
      (t.px.r.toNat : Int) = ((s.px.r.toNat : Int) + dr) % 256 ∧
      (t.px.g.toNat : Int) = ((s.px.g.toNat : Int) + dg) % 256 ∧
      (t.px.b.toNat : Int) = ((s.px.b.toNat : Int) + db) % 256 ∧
      t.px.a = s.px.a ∧
      t = { s with px := t.px, cache := s.cache.set (hash t.px).val t.px, cur := s.cur + 1 }

/-- 43_chunk_decoder.md R189, R192. -/
def Obligations.Diff16AddsWithWraparound : Prop :=
  ∀ (dr dg db : Int) (s : State),
    ∃ t, exec (.diff16 dr dg db) s = .next t ∧
      (t.px.r.toNat : Int) = ((s.px.r.toNat : Int) + dr) % 256 ∧
      (t.px.g.toNat : Int) = ((s.px.g.toNat : Int) + dg) % 256 ∧
      (t.px.b.toNat : Int) = ((s.px.b.toNat : Int) + db) % 256 ∧
      t.px.a = s.px.a ∧
      t = { s with px := t.px, cache := s.cache.set (hash t.px).val t.px, cur := s.cur + 2 }

/-- 43_chunk_decoder.md R190, R192. -/
def Obligations.Diff24AddsWithWraparound : Prop :=
  ∀ (dr dg db da : Int) (s : State),
    ∃ t, exec (.diff24 dr dg db da) s = .next t ∧
      (t.px.r.toNat : Int) = ((s.px.r.toNat : Int) + dr) % 256 ∧
      (t.px.g.toNat : Int) = ((s.px.g.toNat : Int) + dg) % 256 ∧
      (t.px.b.toNat : Int) = ((s.px.b.toNat : Int) + db) % 256 ∧
      (t.px.a.toNat : Int) = ((s.px.a.toNat : Int) + da) % 256 ∧
      t = { s with px := t.px, cache := s.cache.set (hash t.px).val t.px, cur := s.cur + 3 }

/-- 43_chunk_decoder.md R191, R192. -/
def Obligations.ColorReplacesTheFlaggedChannels : Prop :=
  ∀ (r g b a : Option Byte) (s : State),
    ∃ t, exec (.color r g b a) s = .next t ∧
      t.px = ⟨r.getD s.px.r, g.getD s.px.g, b.getD s.px.b, a.getD s.px.a⟩ ∧
      t.cur = s.cur + BitVec.ofNat 64 (1 + r.isSome.toNat + g.isSome.toNat + b.isSome.toNat + a.isSome.toNat) ∧
      t = { s with px := t.px, cache := s.cache.set (hash t.px).val t.px, cur := t.cur }

/-- The frame of the seven opcodes: 10_state.md R26, R28, R40, 40_color_cache.md R117. CUR advances by the chunk's
length; PX is written by INDEX, DIFF and COLOR only, RUN by RUN_8 and RUN_16 only, the cache by DIFF and COLOR only and
in the one slot of the new pixel; every other register, every flag and every byte of SRC and DST is unchanged. -/
def Obligations.ChunksChangeNothingElse : Prop :=
  ∀ (i : Instr) (s t : State), i.isChunk = true → exec i s = .next t →
    t.cur = s.cur + BitVec.ofNat 64 i.size ∧
    (t.px ≠ s.px → (∀ n, i ≠ .run8 n) ∧ (∀ n, i ≠ .run16 n)) ∧
    (t.run ≠ s.run → (∃ n, i = .run8 n) ∨ (∃ n, i = .run16 n)) ∧
    (∀ slot : Fin 64, t.cache[slot] ≠ s.cache[slot] →
      slot = hash t.px ∧ (∀ k, i ≠ .index k) ∧ (∀ n, i ≠ .run8 n) ∧ (∀ n, i ≠ .run16 n)) ∧
    (∀ a, t.src.read a = s.src.read a) ∧ (∀ a, t.dst.read a = s.dst.read a) ∧
    t.cfg = s.cfg ∧ t.pos = s.pos ∧ t.w = s.w ∧ t.h = s.h ∧ t.c = s.c ∧ t.n = s.n ∧ t.cdl = s.cdl ∧
    t.mode = s.mode ∧ t.status = s.status ∧ t.errClass = s.errClass ∧ t.errCause = s.errCause ∧
    t.argWidth = s.argWidth ∧ t.argHeight = s.argHeight ∧ t.argChannels = s.argChannels ∧
    t.argSrcLen = s.argSrcLen ∧ t.resWidth = s.resWidth ∧ t.resHeight = s.resHeight ∧ t.resLen = s.resLen ∧
    t.inbox = s.inbox ∧ t.freeCtr = s.freeCtr

/-! The decoder PIXEL step, from the bytes at the cursor. -/

/-- 43_chunk_decoder.md R185 within R182: the byte `00ssssss` (with the tag of the configuration). -/
def Obligations.StepOnAnIndexByte : Prop :=
  ∀ (s : State) (b1 : Byte) (slot : Fin 64), s.cfg.tags.valid → AtChunk s [b1] →
    b1 &&& 0xC0 = s.cfg.tags.index → slot.val = (b1 &&& 0x3F).toNat →
      step s = .next (State.storePixel { s with px := s.cache[slot], cur := s.cur + 1 })

/-- 43_chunk_decoder.md R186 within R182. -/
def Obligations.StepOnARun8Byte : Prop :=
  ∀ (s : State) (b1 : Byte), s.cfg.tags.valid → AtChunk s [b1] → b1 &&& 0xE0 = 0x40 →
      step s = .next (State.storePixel { s with run := (b1 &&& 0x1F).setWidth 14, cur := s.cur + 1 })

/-- 43_chunk_decoder.md R187 within R182. -/
def Obligations.StepOnARun16Chunk : Prop :=
  ∀ (s : State) (b1 b2 : Byte), s.cfg.tags.valid → AtChunk s [b1, b2] → b1 &&& 0xE0 = s.cfg.tags.run16 →
      step s = .next (State.storePixel
        { s with
          run := (((b1 &&& 0x1F).setWidth 14 <<< 8) ||| b2.setWidth 14) + 32
          cur := s.cur + 2 })

/-- 43_chunk_decoder.md R188, R192 within R182; the additions are those of 8-bit registers. -/
def Obligations.StepOnADiff8Byte : Prop :=
  ∀ (s : State) (b1 : Byte) (p : Pixel), s.cfg.tags.valid → AtChunk s [b1] → b1 &&& 0xC0 = s.cfg.tags.diff8 →
    p = ⟨s.px.r + ((b1 >>> 4) &&& 3) - 1, s.px.g + ((b1 >>> 2) &&& 3) - 1, s.px.b + (b1 &&& 3) - 1, s.px.a⟩ →
      step s = .next (State.storePixel
        { s with px := p, cache := s.cache.set (hash p).val p, cur := s.cur + 1 })

/-- 43_chunk_decoder.md R189, R192 within R182. -/
def Obligations.StepOnADiff16Chunk : Prop :=
  ∀ (s : State) (b1 b2 : Byte) (p : Pixel), s.cfg.tags.valid → AtChunk s [b1, b2] →
    b1 &&& 0xE0 = s.cfg.tags.diff16 →
    p = ⟨s.px.r + (b1 &&& 0x1F) - 15, s.px.g + (b2 >>> 4) - 7, s.px.b + (b2 &&& 0x0F) - 7, s.px.a⟩ →
      step s = .next (State.storePixel
        { s with px := p, cache := s.cache.set (hash p).val p, cur := s.cur + 2 })

/-- 43_chunk_decoder.md R190, R192 within R182. -/
def Obligations.StepOnADiff24Chunk : Prop :=
  ∀ (s : State) (b1 b2 b3 : Byte) (p : Pixel), s.cfg.tags.valid → AtChunk s [b1, b2, b3] →
    b1 &&& 0xF0 = s.cfg.tags.diff24 →
    p = ⟨s.px.r + (((b1 &&& 0x0F) <<< 1) ||| (b2 >>> 7)) - 15, s.px.g + ((b2 >>> 2) &&& 0x1F) - 15,
         s.px.b + (((b2 &&& 0x03) <<< 3) ||| (b3 >>> 5)) - 15, s.px.a + (b3 &&& 0x1F) - 15⟩ →
      step s = .next (State.storePixel
        { s with px := p, cache := s.cache.set (hash p).val p, cur := s.cur + 3 })

/-- 43_chunk_decoder.md R191, R192 within R182; a channel is flagged exactly when it has a literal. -/
def Obligations.StepOnAColorChunk : Prop :=
  ∀ (s : State) (b1 : Byte) (r g b a : Option Byte) (p : Pixel), s.cfg.tags.valid →
    AtChunk s (b1 :: (r.toList ++ g.toList ++ b.toList ++ a.toList)) → b1 &&& 0xF0 = s.cfg.tags.color →
    r.isSome = b1.getLsbD 3 → g.isSome = b1.getLsbD 2 → b.isSome = b1.getLsbD 1 → a.isSome = b1.getLsbD 0 →
    p = ⟨r.getD s.px.r, g.getD s.px.g, b.getD s.px.b, a.getD s.px.a⟩ →
      step s = .next (State.storePixel
        { s with
          px := p
          cache := s.cache.set (hash p).val p
          cur := s.cur + BitVec.ofNat 64 (1 + (r.toList ++ g.toList ++ b.toList ++ a.toList).length) })

/-- A step runs the decoded chunk, and adds the pixel store and POS + 1 around it (43_chunk_decoder.md R182). -/
def Obligations.StepRunsTheDecodedChunk : Prop :=
  ∀ (s : State) (bs : List Byte) (i : Instr), AtChunk s bs → decode s.cfg.tags (.stream bs) = some i →
    ∃ t, exec i s = .next t ∧ step s = .next t.storePixel

/-- A step takes a write of CMD and runs the command it decodes to (10_state.md R31). -/
def Obligations.StepRunsTheWrittenCommand : Prop :=
  ∀ (s : State) (v : BitVec 32) (rest : List HostAct) (i : Instr), s.inbox = .writeCmd v :: rest →
    decode s.cfg.tags (.command v) = some i → step s = exec i { s with inbox := rest }

/-! The decoder around its opcodes. -/

/-- 43_chunk_decoder.md R183: the run hold decrements RUN, fetches nothing, and stores the unchanged pixel. -/
def Obligations.RunHoldRepeatsThePixel : Prop :=
  ∀ s : State, s.inbox = [] → s.mode = .dec → s.pos < s.n → s.run ≠ 0 →
    ∃ t, step s = .next t ∧ t.run.toNat + 1 = s.run.toNat ∧ t = State.storePixel { s with run := t.run }

/-- 43_chunk_decoder.md R193: without STRICT_TRUNCATION the exhausted path sets UNDERRUN and stores the unchanged
pixel. -/
def Obligations.ExhaustedPathReusesThePixel : Prop :=
  ∀ s : State, s.inbox = [] → s.mode = .dec → s.pos < s.n → s.run = 0 → s.cdl ≤ s.cur →
    s.cfg.strictTruncation = false →
      step s = .next (State.storePixel { s with status := { s.status with underrun := true } })

/-- 43_chunk_decoder.md R197, 60_exceptions.md R242 cause 6: with STRICT_TRUNCATION it is an error. After this late error
R245 and 93_implementation_defined.md U6 leave the working registers, RES_* and DST unspecified: that they stay as they
were is the model's choice (log 19; log 7 for RES_*). -/
def Obligations.StrictTruncationRaises : Prop :=
  ∀ s : State, s.inbox = [] → s.mode = .dec → s.pos < s.n → s.run = 0 → s.cdl ≤ s.cur →
    s.cfg.strictTruncation = true →
      step s = .next
        { s with
          errClass := 2
          errCause := 6
          status := { busy := false, done := false, err := true, underrun := true }
          mode := .error }

/-- 43_chunk_decoder.md R194: the store of pixel POS writes its C bytes at POS × C in the order r, g, b, a, and no
other byte of DST. -/
def Obligations.PixelStoreWritesOnlyItsPixel : Prop :=
  ∀ s : State,
    s.storePixel.dst.read (s.pos.toNat * s.c.count) = some s.px.r ∧
    s.storePixel.dst.read (s.pos.toNat * s.c.count + 1) = some s.px.g ∧
    s.storePixel.dst.read (s.pos.toNat * s.c.count + 2) = some s.px.b ∧
    (s.c = .four → s.storePixel.dst.read (s.pos.toNat * s.c.count + 3) = some s.px.a) ∧
    (∀ a, a < s.pos.toNat * s.c.count ∨ s.pos.toNat * s.c.count + s.c.count ≤ a →
      s.storePixel.dst.read a = s.dst.read a) ∧
    s.storePixel = { s with dst := s.storePixel.dst, pos := s.pos + 1 }

/-- 43_chunk_decoder.md R196: FINISH, whatever RUN and CUR are; UNDERRUN stays. -/
def Obligations.DecoderFinishReportsTheImage : Prop :=
  ∀ s : State, s.inbox = [] → s.mode = .dec → s.pos = s.n →
    ∃ t, step s = .next t ∧ t.resLen.toNat = s.n.toNat * s.c.count ∧
      t = { s with
        resWidth := s.w
        resHeight := s.h
        resLen := t.resLen
        status := { busy := false, done := true, err := false, underrun := s.status.underrun }
        mode := .done }

/-- 20_memory.md R60, 43_chunk_decoder.md R195: a chunk whose opcode byte lies in the chunk region ends within the four
bytes of padding after it. -/
def Obligations.FetchStaysInTheStream : Prop :=
  ∀ (s : State) (bs : List Byte), s.cur < s.cdl → s.fetchBytes = some bs →
    12 + s.cur.toNat + bs.length ≤ 12 + s.cdl.toNat + 4

/-! The commands. -/

/-- 42_chunk_encoder.md R141, 70_reset_and_hazards.md R271: ENCODE with legal arguments begins an encode pass. RES_* and
the model's `freeCtr` are not spoken of: RES_* are free values from here to FINISH (log 7). -/
def Obligations.EncodeBeginsAPass : Prop :=
  ∀ s : State, s.status.busy = false → EncodeArgsLegal s →
    ∃ t, exec .encodeCmd s = .next t ∧
      (∀ i : Fin 64, t.cache[i] = ⟨0, 0, 0, 0⟩) ∧ t.px = ⟨0, 0, 0, 255⟩ ∧ t.run = 0 ∧ t.cur = 0 ∧ t.pos = 0 ∧
      t.w.toNat = s.argWidth.toNat ∧ t.h.toNat = s.argHeight.toNat ∧ t.c.count = s.argChannels.toNat ∧
      t.n.toNat = s.argWidth.toNat * s.argHeight.toNat ∧
      t.status = { busy := true, done := false, err := false, underrun := false } ∧ t.mode = .enc ∧
      t.dst.readBytes 0 12 = some (writeHeader ⟨t.w, t.h, 0⟩) ∧
      (∀ a, 12 ≤ a → t.dst.read a = s.dst.read a) ∧ (∀ a, t.src.read a = s.src.read a) ∧
      t.cfg = s.cfg ∧ t.cdl = s.cdl ∧ t.errClass = s.errClass ∧ t.errCause = s.errCause ∧
      t.argWidth = s.argWidth ∧ t.argHeight = s.argHeight ∧ t.argChannels = s.argChannels ∧
      t.argSrcLen = s.argSrcLen ∧ t.inbox = s.inbox

/-- 60_exceptions.md R241 causes 1 to 4 in the order of R244. -/
def Obligations.EncodeRejectsIllegalArguments : Prop :=
  ∀ s : State, s.status.busy = false →
    (s.argWidth.toNat < 1 ∨ 65535 < s.argWidth.toNat → exec .encodeCmd s = .next (failedStart s 1 1)) ∧
    (1 ≤ s.argWidth.toNat ∧ s.argWidth.toNat ≤ 65535 →
      (s.argHeight.toNat < 1 ∨ 65535 < s.argHeight.toNat → exec .encodeCmd s = .next (failedStart s 1 2)) ∧
      (1 ≤ s.argHeight.toNat ∧ s.argHeight.toNat ≤ 65535 →
        (s.argChannels ≠ 3 ∧ s.argChannels ≠ 4 → exec .encodeCmd s = .next (failedStart s 1 3)) ∧
        (s.argChannels = 3 ∨ s.argChannels = 4 →
          s.argSrcLen.toNat < s.argWidth.toNat * s.argHeight.toNat * s.argChannels.toNat →
            exec .encodeCmd s = .next (failedStart s 1 4))))

/-- 43_chunk_decoder.md R181, R198, 70_reset_and_hazards.md R271: DECODE with a legal stream begins a decode pass and
writes no byte of DST; a chunk region that is not empty lies, with its padding, inside the stream (20_memory.md R60). -/
def Obligations.DecodeBeginsAPass : Prop :=
  ∀ (s : State) (hd : Header), s.status.busy = false → DecodeArgsLegal s hd →
    ∃ t, exec .decodeCmd s = .next t ∧
      (∀ i : Fin 64, t.cache[i] = ⟨0, 0, 0, 0⟩) ∧ t.px = ⟨0, 0, 0, 255⟩ ∧ t.run = 0 ∧ t.cur = 0 ∧ t.pos = 0 ∧
      t.w = hd.width ∧ t.h = hd.height ∧ t.c.count = s.argChannels.toNat ∧
      t.n.toNat = hd.width.toNat * hd.height.toNat ∧ t.cdl.toNat = hd.bodyLength.toNat - 4 ∧
      (t.cdl ≠ 0 → 12 + t.cdl.toNat + 4 = s.argSrcLen.toNat) ∧
      t.status = { busy := true, done := false, err := false, underrun := false } ∧ t.mode = .dec ∧
      (∀ a, t.dst.read a = s.dst.read a) ∧ (∀ a, t.src.read a = s.src.read a) ∧
      t.cfg = s.cfg ∧ t.errClass = s.errClass ∧ t.errCause = s.errCause ∧
      t.argWidth = s.argWidth ∧ t.argHeight = s.argHeight ∧ t.argChannels = s.argChannels ∧
      t.argSrcLen = s.argSrcLen ∧ t.inbox = s.inbox

/-- 60_exceptions.md R242 causes 1 to 5 in the order of R244. -/
def Obligations.DecodeRejectsIllegalStreams : Prop :=
  ∀ s : State, s.status.busy = false →
    (s.argChannels ≠ 3 ∧ s.argChannels ≠ 4 → exec .decodeCmd s = .next (failedStart s 2 1)) ∧
    (s.argChannels = 3 ∨ s.argChannels = 4 →
      (s.argSrcLen.toNat < 12 → exec .decodeCmd s = .next (failedStart s 2 2)) ∧
      (12 ≤ s.argSrcLen.toNat →
        (∀ m, s.src.readBytes 0 4 = some m → m ≠ [0x71, 0x6F, 0x69, 0x66] →
          exec .decodeCmd s = .next (failedStart s 2 3)) ∧
        (∀ hd, s.src.readBytes 0 12 = some (writeHeader hd) →
          (hd.width = 0 ∨ hd.height = 0 → exec .decodeCmd s = .next (failedStart s 2 4)) ∧
          (hd.width ≠ 0 ∧ hd.height ≠ 0 ∧ hd.bodyLength.toNat + 12 ≠ s.argSrcLen.toNat →
            exec .decodeCmd s = .next (failedStart s 2 5)))))

/-- 44_commands.md R223: a CMD write of any value while BUSY changes nothing (the act itself is taken). -/
def Obligations.CommandWhileBusyIsIgnored : Prop :=
  ∀ (s : State) (v : BitVec 32) (rest : List HostAct), s.inbox = .writeCmd v :: rest → s.status.busy = true →
    step s = .next { s with inbox := rest }

/-- 44_commands.md R224, 60_exceptions.md R241 cause 6: any value but 1 and 2 while not BUSY raises BAD_COMMAND.
UNDERRUN keeps its value (R245; log 11). -/
def Obligations.UnknownCommandRaises : Prop :=
  ∀ (s : State) (v : BitVec 32) (rest : List HostAct), s.inbox = .writeCmd v :: rest → s.status.busy = false →
    v ≠ 1 → v ≠ 2 →
      step s = .next
        { s with
          errClass := 1
          errCause := 6
          status := { busy := false, done := false, err := true, underrun := s.status.underrun }
          mode := .error
          inbox := rest }

/-- 60_exceptions.md R245: what raising an error writes, and that no further step of the pass runs. That it writes nothing
else is R245's for an error in START; after a late error R245 leaves the working registers and RES_* unspecified, and
93_implementation_defined.md U6 DST, so there it is the model's choice (log 19; log 7 for RES_*). -/
def Obligations.RaiseWritesTheErrorStateOnly : Prop :=
  ∀ (s : State) (e : CodecError),
    s.raise e =
      { s with
        errClass := (match e with | .invalidArgument _ => 1 | .formatError _ => 2)
        errCause := e.causeCode
        status := { busy := false, done := false, err := true, underrun := s.status.underrun }
        mode := .error } ∧
    1 ≤ e.causeCode ∧ e.causeCode ≤ 6 ∧
    (s.inbox = [] → step (s.raise e) = .next (s.raise e))

/-! The encoder. -/

/-- 42_chunk_encoder.md R156: one PIXEL step. `run` is RUN after the count, `flush` whether a run chunk is emitted; the
run chunk precedes the pixel's own chunk (70 R282), and the cache is read before it is written (70 R281). The bytes
stored to are those from 12 + CUR on, and no other byte of DST changes. -/
def Obligations.EncoderPixelStep : Prop :=
  ∀ (s : State) (px : Pixel) (run : Nat) (flush : Bool) (bs : List Byte),
    Inv s → s.inbox = [] → s.mode = .enc → s.pos < s.n →
    s.src.readBytes (s.pos.toNat * s.c.count) s.c.count = some (pixelBytes s.c px) → (s.c = .three → px.a = 255) →
    run = (if px = s.px then s.run.toNat + 1 else s.run.toNat) →
    flush = decide (0 < run ∧ (run = 8224 ∨ px ≠ s.px ∨ s.pos.toNat + 1 = s.n.toNat)) →
    bs = (if flush then chunkBytes s.cfg.tags (runChunk run) else []) ++
         (if px = s.px then [] else chunkBytes s.cfg.tags (selectChunk s.cache px s.px)) →
      ∃ t, step s = .next t ∧ t.run.toNat = (if flush then 0 else run) ∧
        (∀ k, k < bs.length → t.dst.read (12 + s.cur.toNat + k) = bs[k]?) ∧
        (∀ a, a < 12 + s.cur.toNat ∨ 12 + s.cur.toNat + bs.length ≤ a → t.dst.read a = s.dst.read a) ∧
        t.cache = (if px = s.px ∨ s.cache[hash px] = px then s.cache else s.cache.set (hash px).val px) ∧
        t = { s with
          px := px
          run := t.run
          pos := s.pos + 1
          cur := s.cur + BitVec.ofNat 64 bs.length
          cache := t.cache
          dst := t.dst }

/-- 42_chunk_encoder.md R145, R146: the bytes of a run of n pixels. -/
def Obligations.RunChunkBytes : Prop :=
  ∀ (t : Tags) (n : Nat),
    (1 ≤ n → n ≤ 32 → chunkBytes t (runChunk n) = [0x40 ||| BitVec.ofNat 8 (n - 1)]) ∧
    (33 ≤ n → n ≤ 8224 →
      chunkBytes t (runChunk n) = [t.run16 ||| BitVec.ofNat 8 ((n - 33) / 256), BitVec.ofNat 8 ((n - 33) % 256)])

/-- 42_chunk_encoder.md R147, R148, R150 to R154: the chunk of a pixel that differs from the previous one, in the fixed
priority INDEX, DIFF_8, DIFF_16, DIFF_24, COLOR, with its bytes. -/
def Obligations.SelectionPriorityAndBytes : Prop :=
  ∀ (t : Tags) (cache : Vector Pixel 64) (px prev : Pixel) (dr dg db da : Int), px ≠ prev →
    dr = (px.r.toNat : Int) - prev.r.toNat → dg = (px.g.toNat : Int) - prev.g.toNat →
    db = (px.b.toNat : Int) - prev.b.toNat → da = (px.a.toNat : Int) - prev.a.toNat →
      chunkBytes t (selectChunk cache px prev) =
        if cache[hash px] = px then [t.index ||| BitVec.ofNat 8 (hash px).val]
        else if da = 0 ∧ (-1 ≤ dr ∧ dr ≤ 2) ∧ (-1 ≤ dg ∧ dg ≤ 2) ∧ (-1 ≤ db ∧ db ≤ 2) then
          [t.diff8 ||| BitVec.ofInt 8 (16 * (dr + 1) + 4 * (dg + 1) + (db + 1))]
        else if da = 0 ∧ (-15 ≤ dr ∧ dr ≤ 16) ∧ (-7 ≤ dg ∧ dg ≤ 8) ∧ (-7 ≤ db ∧ db ≤ 8) then
          [t.diff16 ||| BitVec.ofInt 8 (dr + 15), BitVec.ofInt 8 (16 * (dg + 7) + (db + 7))]
        else if (-15 ≤ dr ∧ dr ≤ 16) ∧ (-15 ≤ dg ∧ dg ≤ 16) ∧ (-15 ≤ db ∧ db ≤ 16) ∧ (-15 ≤ da ∧ da ≤ 16) then
          [t.diff24 ||| BitVec.ofInt 8 ((dr + 15) / 2),
           BitVec.ofInt 8 (128 * ((dr + 15) % 2) + 4 * (dg + 15) + (db + 15) / 8),
           BitVec.ofInt 8 (32 * ((db + 15) % 8) + (da + 15))]
        else
          (t.color ||| BitVec.ofNat 8
            ((if dr ≠ 0 then 8 else 0) + (if dg ≠ 0 then 4 else 0) + (if db ≠ 0 then 2 else 0) +
              (if da ≠ 0 then 1 else 0))) ::
            ((if dr ≠ 0 then [px.r] else []) ++ (if dg ≠ 0 then [px.g] else []) ++
              (if db ≠ 0 then [px.b] else []) ++ (if da ≠ 0 then [px.a] else []))

/-- 42_chunk_encoder.md R156: a PIXEL step emits 0 to 7 bytes; R160 (b): the chunk of a differing pixel has operands in
range, and is no COLOR without flags. -/
def Obligations.EncoderEmitsWellFormedChunks : Prop :=
  ∀ (t : Tags) (cache : Vector Pixel 64) (px prev : Pixel) (n : Nat), px ≠ prev → 1 ≤ n → n ≤ 8224 →
    (selectChunk cache px prev).wf = true ∧ (selectChunk cache px prev).isChunk = true ∧
    selectChunk cache px prev ≠ .color none none none none ∧ (runChunk n).wf = true ∧
    (chunkBytes t (runChunk n)).length ≤ min n 2 ∧ 1 ≤ (chunkBytes t (selectChunk cache px prev)).length ∧
    (chunkBytes t (selectChunk cache px prev)).length ≤ 5

/-- 42_chunk_encoder.md R157: FINISH stores four zero bytes at 12 + CUR and the body length at offsets 8 to 11, and
changes no other byte of DST. -/
def Obligations.EncoderFinishClosesTheStream : Prop :=
  ∀ s : State, s.inbox = [] → s.mode = .enc → s.pos = s.n → s.cur.toNat + 4 ≤ 4294967295 →
    ∃ t, step s = .next t ∧
      (∀ k, k < 4 → t.dst.read (12 + s.cur.toNat + k) = some 0) ∧
      t.dst.readBytes 8 4 = some (be32 (BitVec.ofNat 32 (s.cur.toNat + 4))) ∧
      (∀ a, (a < 8 ∨ 12 ≤ a) → (a < 12 + s.cur.toNat ∨ 12 + s.cur.toNat + 4 ≤ a) →
        t.dst.read a = s.dst.read a) ∧
      t.resLen.toNat = 12 + (s.cur.toNat + 4) ∧
      t = { s with
        dst := t.dst
        resWidth := s.w
        resHeight := s.h
        resLen := t.resLen
        status := { busy := false, done := true, err := false, underrun := false }
        mode := .done }

/-- 42_chunk_encoder.md R158, 60_exceptions.md R241 cause 5. After this late error R245 and 93_implementation_defined.md U6
leave the working registers, RES_* and DST unspecified: that they stay as they were is the model's choice (log 19; log 7
for RES_*). -/
def Obligations.TooLongABodyRaises : Prop :=
  ∀ s : State, s.inbox = [] → s.mode = .enc → s.pos = s.n → 4294967295 < s.cur.toNat + 4 →
    step s = .next
      { s with
        errClass := 1
        errCause := 5
        status := { busy := false, done := false, err := true, underrun := s.status.underrun }
        mode := .error }

/-- 42_chunk_encoder.md R159: the chunk region and the encoded size of an image of N pixels, and when the body can be
too long for the length field. -/
def Obligations.EncodedSizeIsBounded : Prop :=
  ∀ s : State, Inv s → s.inbox = [] → s.mode = .enc → s.pos = s.n →
    1 ≤ s.cur.toNat ∧ s.cur.toNat ≤ 5 * s.n.toNat ∧
    (4294967295 < s.cur.toNat + 4 → 858993458 < s.n.toNat) ∧
    (∀ t, step s = .next t → t.mode = .done → 17 ≤ t.resLen.toNat ∧ t.resLen.toNat ≤ 5 * s.n.toNat + 16)

/-- 40_color_cache.md R117, 42_chunk_encoder.md R161: a decoder that holds the encoder's PX and CACHE and executes the
chunk the encoder emits for a pixel ends with that pixel and with the encoder's new cache. -/
def Obligations.ChunkReconstructsThePixel : Prop :=
  ∀ (e d : State) (px : Pixel), px ≠ e.px → d.px = e.px → d.cache = e.cache →
    ∃ t, exec (selectChunk e.cache px e.px) d = .next t ∧ t.px = px ∧ t.cache = (e.selectAndEmit px).cache ∧
      t.run = d.run ∧ t.cur = d.cur + BitVec.ofNat 64 (chunkBytes e.cfg.tags (selectChunk e.cache px e.px)).length

/-! The Header Codec. -/

/-- 41_header_codec.md R125, 30_encoding.md R75: the twelve bytes. -/
def Obligations.WriteHeaderBytes : Prop :=
  ∀ w h : BitVec 16, ∀ l : BitVec 32,
    (writeHeader ⟨w, h, l⟩).map (fun v => v.toNat) =
      [0x71, 0x6F, 0x69, 0x66, w.toNat / 256, w.toNat % 256, h.toNat / 256, h.toNat % 256,
       l.toNat / 16777216, l.toNat / 65536 % 256, l.toNat / 256 % 256, l.toNat % 256]

/-- 41_header_codec.md R130: `read_header` of a written header followed by exactly the bytes it announces. -/
def Obligations.ReadHeaderInvertsWriteHeader : Prop :=
  ∀ (src : Memory) (hd : Header), hd.width ≠ 0 → hd.height ≠ 0 → src.readBytes 0 12 = some (writeHeader hd) →
    readHeader src (hd.bodyLength.toNat + 12) = some (.ok hd) ∧
    (∀ len, readHeader src len = some (.ok hd) → len = hd.bodyLength.toNat + 12)

/-! The machine as a whole. -/

/-- Every step, of the block or of the host, keeps the invariant. -/
def Obligations.StepKeepsTheInvariant : Prop :=
  ∀ s t : State, Inv s → step s = .next t → Inv t

/-- The invariant holds after reset. The unspecified registers' reset values (log 5) are the model's choice, and no
clause of the invariant speaks of them outside a pass. -/
def Obligations.ResetMeetsTheInvariant : Prop := Inv State.reset

/-- 70_reset_and_hazards.md R270: the values the spec gives, and that the block does nothing until CMD is written. -/
def Obligations.ResetValues : Prop :=
  State.reset.mode = .idle ∧
  State.reset.status = { busy := false, done := false, err := false, underrun := false } ∧
  State.reset.errClass = 0 ∧ State.reset.errCause = 0 ∧
  State.reset.resWidth = 0 ∧ State.reset.resHeight = 0 ∧ State.reset.resLen = 0 ∧
  step State.reset = .next State.reset

/-- 10_state.md R29: the transitions of MODE, and the only errors inside a pass. -/
def Obligations.ModeTransitions : Prop :=
  ∀ s t : State, Inv s → step s = .next t →
    (s.mode = .idle ∨ s.mode = .done ∨ s.mode = .error →
      t.mode = s.mode ∨ t.mode = .enc ∨ t.mode = .dec ∨ t.mode = .error) ∧
    (s.mode = .enc → t.mode = .enc ∨ t.mode = .done ∨ (t.mode = .error ∧ t.errClass = 1 ∧ t.errCause = 5)) ∧
    (s.mode = .dec → t.mode = .dec ∨ t.mode = .done ∨
      (t.mode = .error ∧ t.errClass = 2 ∧ t.errCause = 6 ∧ s.cfg.strictTruncation = true))

/-- 20_memory.md R51, 10_state.md R20, R38: no step writes the configuration; SRC changes only where the step takes the
host's filling of it, and an argument register only where the step takes the host's write of that register. START,
PIXEL and FINISH steps, errors and every other host act are among the steps. -/
def Obligations.BlockNeverWritesItsInputs : Prop :=
  ∀ s t : State, step s = .next t →
    t.cfg = s.cfg ∧
    ((∀ bs rest, s.inbox ≠ .fillSrc bs :: rest) → ∀ a, t.src.read a = s.src.read a) ∧
    ((∀ v rest, s.inbox ≠ .writeArgWidth v :: rest) → t.argWidth = s.argWidth) ∧
    ((∀ v rest, s.inbox ≠ .writeArgHeight v :: rest) → t.argHeight = s.argHeight) ∧
    ((∀ v rest, s.inbox ≠ .writeArgChannels v :: rest) → t.argChannels = s.argChannels) ∧
    ((∀ v rest, s.inbox ≠ .writeArgSrcLen v :: rest) → t.argSrcLen = s.argSrcLen)

/-- 10_state.md R30: "later writes do not affect a pass in progress". A step of a pass from other argument registers is
the same step. -/
def Obligations.ArgumentWritesDoNotAffectAPass : Prop :=
  ∀ (s t : State) (w h c : BitVec 32) (l : BitVec 64), s.inbox = [] → s.mode = .enc ∨ s.mode = .dec →
    step s = .next t →
      step { s with argWidth := w, argHeight := h, argChannels := c, argSrcLen := l } =
        .next { t with argWidth := w, argHeight := h, argChannels := c, argSrcLen := l }

/-- 10_state.md R30, R31: a host write of an argument register changes that register alone, BUSY or not (log 12). -/
def Obligations.HostWritesOneArgument : Prop :=
  ∀ (s : State) (rest : List HostAct),
    (∀ v, s.inbox = .writeArgWidth v :: rest → step s = .next { s with argWidth := v, inbox := rest }) ∧
    (∀ v, s.inbox = .writeArgHeight v :: rest → step s = .next { s with argHeight := v, inbox := rest }) ∧
    (∀ v, s.inbox = .writeArgChannels v :: rest → step s = .next { s with argChannels := v, inbox := rest }) ∧
    (∀ v, s.inbox = .writeArgSrcLen v :: rest → step s = .next { s with argSrcLen := v, inbox := rest })

/-- The host's other acts, in the form this model gives them (log 2, log 13, log 17): it lets the block take one step,
it waits while BUSY (44_commands.md R222 step 5), it replaces a buffer while the block is not BUSY, and a replacement
while BUSY is refused (93_implementation_defined.md U7). -/
def Obligations.HostWaitsAndFillsBuffers : Prop :=
  ∀ (s : State) (rest : List HostAct),
    (∀ t, s.inbox = .letRun :: rest → step { s with inbox := [] } = .next t → step s = .next { t with inbox := rest }) ∧
    (∀ t, s.inbox = .awaitNotBusy :: rest → s.status.busy = true → step { s with inbox := [] } = .next t →
      step s = .next { t with inbox := .awaitNotBusy :: rest }) ∧
    (s.inbox = .awaitNotBusy :: rest → s.status.busy = false → step s = .next { s with inbox := rest }) ∧
    (∀ bs, s.inbox = .fillSrc bs :: rest → s.status.busy = false →
      ∃ t, step s = .next t ∧ t = { s with src := t.src, inbox := rest } ∧ ∀ a, t.src.read a = bs[a]?) ∧
    (∀ bs, s.inbox = .provideDst bs :: rest → s.status.busy = false →
      ∃ t, step s = .next t ∧ t = { s with dst := t.dst, inbox := rest } ∧ ∀ a, t.dst.read a = bs[a]?) ∧
    (∀ bs, s.inbox = .fillSrc bs :: rest → s.status.busy = true → step s = .refused .srcChangedWhileBusy) ∧
    (∀ bs, s.inbox = .provideDst bs :: rest → s.status.busy = true → step s = .refused .dstChangedWhileBusy)

/-- 43_chunk_decoder.md R199, R253: a DECODE of a stream with a legal header is busy for its N PIXEL steps and then
done, whatever its chunks are; with STRICT_TRUNCATION it may instead end in TRUNCATED. -/
def Obligations.EveryDecodeTerminates : Prop :=
  ∀ (s : State) (hd : Header), s.inbox = [.writeCmd 2] → s.status.busy = false → DecodeArgsLegal s hd →
    SrcFilled s s.argSrcLen.toNat →
      ∃ t, runSteps (hd.width.toNat * hd.height.toNat + 2) s = .next t ∧
        (t.mode = .done ∧ t.resWidth = hd.width ∧ t.resHeight = hd.height ∧
            t.resLen.toNat = hd.width.toNat * hd.height.toNat * s.argChannels.toNat ∧
            (∀ a, a < t.resLen.toNat → (t.dst.read a).isSome = true) ∧
            (∀ k, k ≤ hd.width.toNat * hd.height.toNat → viewAfter (k + 1) s = some .busy) ∨
          t.mode = .error ∧ t.errClass = 2 ∧ t.errCause = 6 ∧ s.cfg.strictTruncation = true)

/-- 70_reset_and_hazards.md R290, 42_chunk_encoder.md R158, R159: an ENCODE with legal arguments and a filled buffer is
busy for its N PIXEL steps and then done, or fails with BODY_TOO_LONG, which it cannot for N ≤ 858,993,458. -/
def Obligations.EveryEncodeTerminates : Prop :=
  ∀ s : State, s.inbox = [.writeCmd 1] → s.status.busy = false → EncodeArgsLegal s →
    SrcFilled s (s.argWidth.toNat * s.argHeight.toNat * s.argChannels.toNat) →
      ∃ t, runSteps (s.argWidth.toNat * s.argHeight.toNat + 2) s = .next t ∧
        (∀ k, k ≤ s.argWidth.toNat * s.argHeight.toNat → viewAfter (k + 1) s = some .busy) ∧
        (t.mode = .done ∧ (∀ a, a < t.resLen.toNat → (t.dst.read a).isSome = true) ∨
          t.mode = .error ∧ t.errClass = 1 ∧ t.errCause = 5 ∧
            858993458 < s.argWidth.toNat * s.argHeight.toNat)

/-- 44_commands.md R226: what the host can read during and after a command depends on the command, the argument
registers the command reads, SRC and the configuration alone; not on any earlier command nor on what DST held. -/
def Obligations.CommandsArePureFunctions : Prop :=
  ∀ (s u : State) (v : BitVec 32) (k : Nat), v = 1 ∨ v = 2 → s.inbox = [.writeCmd v] → u.inbox = [.writeCmd v] →
    s.status.busy = false → u.status.busy = false → s.cfg = u.cfg →
    (v = 1 → s.argWidth = u.argWidth ∧ s.argHeight = u.argHeight) → s.argChannels = u.argChannels →
    s.argSrcLen = u.argSrcLen → (∀ a, s.src.read a = u.src.read a) → viewAfter (k + 1) s = viewAfter (k + 1) u

/-- 44_commands.md R225, 43_chunk_decoder.md R200: where ENCODE ends in DONE, DECODE of the stream it produced, from any
state and with either setting of STRICT_TRUNCATION, ends in DONE without UNDERRUN with the image that was encoded. -/
def Obligations.DecodeOfEncodedImageIsTheImage : Prop :=
  ∀ s t u : State, s.cfg.tags.valid → s.inbox = [.writeCmd 1] → s.status.busy = false →
    runSteps (s.argWidth.toNat * s.argHeight.toNat + 2) s = .next t → t.mode = .done →
    u.cfg.tags = s.cfg.tags → u.inbox = [.writeCmd 2] → u.status.busy = false →
    u.argChannels = s.argChannels → u.argSrcLen = t.resLen →
    (∀ a, a < t.resLen.toNat → u.src.read a = t.dst.read a) →
      ∃ v, runSteps (s.argWidth.toNat * s.argHeight.toNat + 2) u = .next v ∧
        v.status = { busy := false, done := true, err := false, underrun := false } ∧
        v.resWidth.toNat = s.argWidth.toNat ∧ v.resHeight.toNat = s.argHeight.toNat ∧
        v.resLen.toNat = s.argWidth.toNat * s.argHeight.toNat * s.argChannels.toNat ∧
        ∀ a, a < v.resLen.toNat → v.dst.read a = s.src.read a
end

