-- ==== Sys2Proof/Laws/Decode.lean ====
section
/-! SUPPORT. The decoder, said once: what each tag decodes to, and what an accepted chunk looks like. -/

namespace Sys2Proof

/-! Literals of a COLOR. -/

theorem takeLiteral_ok {f : Bool} {bs rest : List Byte} {o : Option Byte} (h : takeLiteral f bs = .ok (o, rest)) :
    bs = o.toList ++ rest ∧ o.isSome = f := by
  cases f <;> cases bs <;> simp [takeLiteral] at h <;> obtain ⟨rfl, rfl⟩ := h <;> simp

theorem takeLiteral_append (o : Option Byte) (rest : List Byte) :
    takeLiteral o.isSome (o.toList ++ rest) = .ok (o, rest) := by
  cases o <;> rfl

theorem toList_length (o : Option Byte) : o.toList.length = o.isSome.toNat := by
  cases o <;> rfl

theorem decodeColor_ok {b1 : Byte} {bs rest : List Byte} {i : Instr} (h : decodeColor b1 bs = .ok (i, rest)) :
    ∃ r g b a : Option Byte, i = .color r g b a ∧ bs = r.toList ++ g.toList ++ b.toList ++ a.toList ++ rest ∧
      r.isSome = b1.getLsbD 3 ∧ g.isSome = b1.getLsbD 2 ∧ b.isSome = b1.getLsbD 1 ∧ a.isSome = b1.getLsbD 0 := by
  simp only [decodeColor] at h
  split at h
  · cases h
  rename_i r rest1 h1
  split at h
  · cases h
  rename_i g rest2 h2
  split at h
  · cases h
  rename_i b rest3 h3
  split at h
  · cases h
  rename_i a rest4 h4
  cases h
  obtain ⟨rfl, e1⟩ := takeLiteral_ok h1
  obtain ⟨rfl, e2⟩ := takeLiteral_ok h2
  obtain ⟨rfl, e3⟩ := takeLiteral_ok h3
  obtain ⟨rfl, e4⟩ := takeLiteral_ok h4
  exact ⟨r, g, b, a, rfl, by simp, e1, e2, e3, e4⟩

theorem decodeColor_append (b1 : Byte) (r g b a : Option Byte) (rest : List Byte) (hr : r.isSome = b1.getLsbD 3)
    (hg : g.isSome = b1.getLsbD 2) (hb : b.isSome = b1.getLsbD 1) (ha : a.isSome = b1.getLsbD 0) :
    decodeColor b1 (r.toList ++ g.toList ++ b.toList ++ a.toList ++ rest) = .ok (.color r g b a, rest) := by
  simp only [decodeColor, ← hr, ← hg, ← hb, ← ha, List.append_assoc, takeLiteral_append]

/-- 30_encoding.md R87: an accepted chunk has the length its first byte gives, and the bytes after it are left. -/
theorem decodeChunk_ok {t : Tags} {bs rest : List Byte} {i : Instr} (h : decodeChunk t bs = .ok (i, rest)) :
    ∃ b1 ops, bs = b1 :: (ops ++ rest) ∧ i.size = opLength t b1 ∧ ops.length + 1 = i.size ∧ i.isChunk = true := by
  cases bs with
  | nil => simp [decodeChunk] at h
  | cons b1 tail =>
    simp only [decodeChunk] at h
    refine ⟨b1, ?_⟩
    simp only [opLength]
    split_ifs at h with h1 h2 h3 h4 h5 h6
    · cases h; exact ⟨[], rfl, by simp [h1, Instr.size], rfl, rfl⟩
    · cases h; exact ⟨[], rfl, by simp [h2, Instr.size, decodeDiff8], rfl, rfl⟩
    · cases h; exact ⟨[], rfl, by simp [h3, Instr.size, decodeRun8], rfl, rfl⟩
    · rw [if_neg (by tauto), if_pos (by tauto)]
      split at h <;> cases h
      exact ⟨[_], rfl, rfl, rfl, rfl⟩
    · rw [if_neg (by tauto), if_pos (by tauto)]
      split at h <;> cases h
      exact ⟨[_], rfl, rfl, rfl, rfl⟩
    · rw [if_neg (by tauto), if_neg (by tauto), if_pos (by tauto)]
      split at h <;> cases h
      exact ⟨[_, _], rfl, rfl, rfl, rfl⟩
    · rw [if_neg (by tauto), if_neg (by tauto), if_neg (by tauto)]
      obtain ⟨r, g, b, a, rfl, rfl, e1, e2, e3, e4⟩ := decodeColor_ok h
      refine ⟨_, rfl, ?_, ?_, rfl⟩
      · simp only [Instr.size, literalCount, toList_length, e1, e2, e3, e4]
      · simp only [Instr.size, List.length_append]; omega

/-- 30_encoding.md R88, R89: a biased field of w bits stands for a delta of the range its bias gives. -/
theorem unbias_bounds {w : Nat} (bias : Int) (field : BitVec w) :
    -bias ≤ unbias bias field ∧ unbias bias field < 2 ^ w - bias := by
  have := field.isLt
  simp only [unbias]
  push_cast [← Int.ofNat_lt] at this
  omega

/-- R91: whatever is decoded has its operands in range, for any tags. -/
theorem decodeChunk_wf {t : Tags} {bs rest : List Byte} {i : Instr} (h : decodeChunk t bs = .ok (i, rest)) :
    i.wf = true := by
  cases bs with
  | nil => simp [decodeChunk] at h
  | cons b1 tail =>
    simp only [decodeChunk] at h
    split_ifs at h
    · cases h; rfl
    · cases h
      have h1 := unbias_bounds 1 (b1.extractLsb' 4 2)
      have h2 := unbias_bounds 1 (b1.extractLsb' 2 2)
      have h3 := unbias_bounds 1 (b1.extractLsb' 0 2)
      simp only [decodeDiff8, Instr.wf, inRange, Bool.and_eq_true, decide_eq_true_eq]
      omega
    · cases h
      have := (b1.extractLsb' 0 5).isLt
      simp only [decodeRun8, Instr.wf, Bool.and_eq_true, decide_eq_true_eq, Config.run8Max]
      omega
    · split at h <;> cases h
      rename_i b2
      have := (b1.extractLsb' 0 5 ++ b2).isLt
      simp only [decodeRun16, Instr.wf, Bool.and_eq_true, decide_eq_true_eq, Config.run8Max, Config.runMax]
      omega
    · split at h <;> cases h
      rename_i b2
      have h1 := unbias_bounds 15 (b1.extractLsb' 0 5)
      have h2 := unbias_bounds 7 (b2.extractLsb' 4 4)
      have h3 := unbias_bounds 7 (b2.extractLsb' 0 4)
      simp only [decodeDiff16, Instr.wf, inRange, Bool.and_eq_true, decide_eq_true_eq]
      omega
    · split at h <;> cases h
      rename_i b2 b3
      have h1 := unbias_bounds 15 ((b1 ++ b2 ++ b3).extractLsb' 15 5)
      have h2 := unbias_bounds 15 ((b1 ++ b2 ++ b3).extractLsb' 10 5)
      have h3 := unbias_bounds 15 ((b1 ++ b2 ++ b3).extractLsb' 5 5)
      have h4 := unbias_bounds 15 ((b1 ++ b2 ++ b3).extractLsb' 0 5)
      simp only [decodeDiff24, Instr.wf, inRange, Bool.and_eq_true, decide_eq_true_eq]
      omega
    · obtain ⟨r, g, b, a, rfl, -⟩ := decodeColor_ok h
      rfl

theorem decode_stream_iff {t : Tags} {bs : List Byte} {i : Instr} :
    decode t (.stream bs) = some i ↔ decodeChunk t bs = .ok (i, []) := by
  simp only [decode]
  split <;> rename_i h <;> rw [h] <;> simp

/-! Tags. -/

/-- 30_encoding.md R79: what a valid assignment says about each pair of tags, in the form the decoder's tests need. -/
theorem Tags.valid_pairs {t : Tags} (h : t.valid) :
    (t.index &&& Config.mask2 = t.index ∧ t.diff8 &&& Config.mask2 = t.diff8 ∧ t.run16 &&& Config.mask3 = t.run16 ∧
      t.diff16 &&& Config.mask3 = t.diff16 ∧ t.diff24 &&& Config.mask4 = t.diff24 ∧ t.color &&& Config.mask4 = t.color) ∧
    t.diff8 ≠ t.index ∧
    (Config.tagRun8 ≠ t.index ∧ Config.tagRun8 ≠ t.diff8) ∧
    (t.run16 &&& Config.mask2 ≠ t.index ∧ t.run16 &&& Config.mask2 ≠ t.diff8 ∧ t.run16 ≠ Config.tagRun8) ∧
    (t.diff16 &&& Config.mask2 ≠ t.index ∧ t.diff16 &&& Config.mask2 ≠ t.diff8 ∧ t.diff16 ≠ Config.tagRun8 ∧ t.diff16 ≠ t.run16) ∧
    (t.diff24 &&& Config.mask2 ≠ t.index ∧ t.diff24 &&& Config.mask2 ≠ t.diff8 ∧ t.diff24 &&& Config.mask3 ≠ Config.tagRun8 ∧
      t.diff24 &&& Config.mask3 ≠ t.run16 ∧ t.diff24 &&& Config.mask3 ≠ t.diff16) ∧
    (t.color &&& Config.mask2 ≠ t.index ∧ t.color &&& Config.mask2 ≠ t.diff8 ∧ t.color &&& Config.mask3 ≠ Config.tagRun8 ∧
      t.color &&& Config.mask3 ≠ t.run16 ∧ t.color &&& Config.mask3 ≠ t.diff16 ∧ t.color ≠ t.diff24) := by
  obtain ⟨h1, h2⟩ := h
  simp only [Tags.rows, List.mem_cons, List.not_mem_nil, or_false, forall_eq_or_imp, forall_eq, Tags.disjoint,
    List.pairwise_cons, bne_iff_ne, ne_eq,
    show Config.mask2 &&& Config.mask2 = Config.mask2 from rfl, show Config.mask2 &&& Config.mask3 = Config.mask2 from rfl,
    show Config.mask2 &&& Config.mask4 = Config.mask2 from rfl, show Config.mask3 &&& Config.mask3 = Config.mask3 from rfl,
    show Config.mask3 &&& Config.mask4 = Config.mask3 from rfl, show Config.mask4 &&& Config.mask4 = Config.mask4 from rfl,
    show Config.tagRun8 &&& Config.mask2 = Config.tagRun8 from rfl,
    show Config.tagRun8 &&& Config.mask3 = Config.tagRun8 from rfl] at h1 h2
  obtain ⟨m1, m2, -, m4, m5, m6, m7⟩ := h1
  rw [m1, m2, m4, m5, m6, m7] at h2
  obtain ⟨⟨a1, a2, a3, a4, a5, a6⟩, ⟨b1, b2, b3, b4, b5⟩, ⟨c1, c2, c3, c4⟩, ⟨d1, d2, d3⟩, ⟨e1, e2⟩, f, -⟩ := h2
  refine ⟨⟨m1, m2, m4, m5, m6, m7⟩, Ne.symm a1, ⟨Ne.symm a2, Ne.symm b1⟩,
    ⟨Ne.symm a3, Ne.symm b2, Ne.symm c1⟩, ⟨Ne.symm a4, Ne.symm b3, Ne.symm c2, Ne.symm d1⟩,
    ⟨Ne.symm a5, Ne.symm b4, Ne.symm c3, Ne.symm d2, Ne.symm e1⟩,
    ⟨Ne.symm a6, Ne.symm b5, Ne.symm c4, Ne.symm d3, Ne.symm e2, Ne.symm f⟩⟩

/-- A narrower mask sees the bits a wider one keeps. -/
theorem mask3_mask2 (b : Byte) : b &&& Config.mask2 = (b &&& Config.mask3) &&& Config.mask2 := by
  rw [BitVec.and_assoc]; rfl

theorem mask4_mask2 (b : Byte) : b &&& Config.mask2 = (b &&& Config.mask4) &&& Config.mask2 := by
  rw [BitVec.and_assoc]; rfl

theorem mask4_mask3 (b : Byte) : b &&& Config.mask3 = (b &&& Config.mask4) &&& Config.mask3 := by
  rw [BitVec.and_assoc]; rfl

section Tested
variable {t : Tags} {b1 b2 b3 : Byte} {rest : List Byte}

theorem decodeChunk_index (hb : b1 &&& Config.mask2 = t.index) :
    decodeChunk t (b1 :: rest) = .ok (.index (b1.extractLsb' 0 6).toFin, rest) := by
  simp only [decodeChunk, hb, if_true]

theorem decodeChunk_diff8 (h : t.valid) (hb : b1 &&& Config.mask2 = t.diff8) :
    decodeChunk t (b1 :: rest) = .ok (decodeDiff8 b1, rest) := by
  simp only [decodeChunk, hb, (Tags.valid_pairs h).2.1, if_false, if_true]

theorem decodeChunk_run8 (h : t.valid) (hb : b1 &&& Config.mask3 = Config.tagRun8) :
    decodeChunk t (b1 :: rest) = .ok (decodeRun8 b1, rest) := by
  obtain ⟨h1, h2⟩ := (Tags.valid_pairs h).2.2.1
  have e : b1 &&& Config.mask2 = Config.tagRun8 := by rw [mask3_mask2, hb]; rfl
  simp only [decodeChunk, e, hb, h1, h2, if_false, if_true]

theorem decodeChunk_run16 (h : t.valid) (hb : b1 &&& Config.mask3 = t.run16) :
    decodeChunk t (b1 :: b2 :: rest) = .ok (decodeRun16 b1 b2, rest) := by
  obtain ⟨h1, h2, h3⟩ := (Tags.valid_pairs h).2.2.2.1
  have e : b1 &&& Config.mask2 = t.run16 &&& Config.mask2 := by rw [mask3_mask2, hb]
  simp only [decodeChunk, e, hb, h1, h2, h3, if_false, if_true]

theorem decodeChunk_diff16 (h : t.valid) (hb : b1 &&& Config.mask3 = t.diff16) :
    decodeChunk t (b1 :: b2 :: rest) = .ok (decodeDiff16 b1 b2, rest) := by
  obtain ⟨h1, h2, h3, h4⟩ := (Tags.valid_pairs h).2.2.2.2.1
  have e : b1 &&& Config.mask2 = t.diff16 &&& Config.mask2 := by rw [mask3_mask2, hb]
  simp only [decodeChunk, e, hb, h1, h2, h3, h4, if_false, if_true]

theorem decodeChunk_diff24 (h : t.valid) (hb : b1 &&& Config.mask4 = t.diff24) :
    decodeChunk t (b1 :: b2 :: b3 :: rest) = .ok (decodeDiff24 b1 b2 b3, rest) := by
  obtain ⟨h1, h2, h3, h4, h5⟩ := (Tags.valid_pairs h).2.2.2.2.2.1
  have e2 : b1 &&& Config.mask2 = t.diff24 &&& Config.mask2 := by rw [mask4_mask2, hb]
  have e3 : b1 &&& Config.mask3 = t.diff24 &&& Config.mask3 := by rw [mask4_mask3, hb]
  simp only [decodeChunk, e2, e3, hb, h1, h2, h3, h4, h5, if_false, if_true]

theorem decodeChunk_color (h : t.valid) (hb : b1 &&& Config.mask4 = t.color) :
    decodeChunk t (b1 :: rest) = decodeColor b1 rest := by
  obtain ⟨h1, h2, h3, h4, h5, h6⟩ := (Tags.valid_pairs h).2.2.2.2.2.2
  have e2 : b1 &&& Config.mask2 = t.color &&& Config.mask2 := by rw [mask4_mask2, hb]
  have e3 : b1 &&& Config.mask3 = t.color &&& Config.mask3 := by rw [mask4_mask3, hb]
  simp only [decodeChunk, e2, e3, hb, h1, h2, h3, h4, h5, h6, if_false]

end Tested

end Sys2Proof
end

