-- ==== Sys2Proof/Laws/Memory.lean ====
section
/-! SUPPORT. The laws of a byte buffer: read after write, the canonical form, and what it is canonical for. -/

namespace Sys2Proof.Machine.Memory

@[simp] theorem read_nil (x : Nat) : read [] x = none := rfl

theorem read_cons (a : Nat) (v : Byte) (m : Memory) (x : Nat) :
    read ((a, v) :: m) x = if a = x then some v else read m x := rfl

@[simp] theorem read_write_same (m : Memory) (x : Nat) (v : Byte) : (write m x v).read x = some v := by
  induction m with
  | nil => simp [write, read]
  | cons cell m ih =>
    obtain ⟨a, u⟩ := cell
    simp only [write]
    split_ifs with h1 h2
    · simp [read]
    · simp [read]
    · have : a ≠ x := fun h => h2 h.symm
      simp [read, this, ih]

theorem read_write_other (m : Memory) {x y : Nat} (v : Byte) (h : y ≠ x) : (write m x v).read y = m.read y := by
  induction m with
  | nil => simp [write, read, h.symm, unlisted]
  | cons cell m ih =>
    obtain ⟨a, u⟩ := cell
    simp only [write]
    split_ifs with h1 h2
    · simp [read, h.symm]
    · subst h2
      simp [read, h.symm]
    · simp [read, ih]

theorem read_write (m : Memory) (x y : Nat) (v : Byte) :
    (write m x v).read y = if y = x then some v else m.read y := by
  split_ifs with h
  · subst h; simp
  · exact read_write_other m v h

/-- A store of a byte sequence, read back: the bytes inside it, everything else as before. -/
theorem read_writeBytes (vs : List Byte) (m : Memory) (x y : Nat) :
    (writeBytes m x vs).read y = if x ≤ y ∧ y < x + vs.length then vs[y - x]? else m.read y := by
  induction vs generalizing m x with
  | nil => simp [writeBytes]
  | cons v vs ih =>
    rw [writeBytes, ih, read_write]
    rcases Nat.lt_trichotomy y x with h | h | h
    · rw [if_neg (by omega), if_neg (by omega), if_neg (by omega)]
    · subst h
      simp
    · obtain ⟨k, rfl⟩ : ∃ k, y = x + 1 + k := ⟨y - (x + 1), by omega⟩
      have e : x + 1 + k - x = k + 1 := by omega
      simp only [List.length_cons, e, List.getElem?_cons_succ, Nat.add_sub_cancel_left]
      by_cases hk : k < vs.length
      · rw [if_pos (by omega), if_pos (by omega)]
      · rw [if_neg (by omega), if_neg (by omega), if_neg (by omega)]

theorem read_writeBytes_outside (vs : List Byte) (m : Memory) {x y : Nat} (h : y < x ∨ x + vs.length ≤ y) :
    (writeBytes m x vs).read y = m.read y := by
  rw [read_writeBytes, if_neg (by omega)]

theorem read_writeBytes_inside (vs : List Byte) (m : Memory) {x k : Nat} (h : k < vs.length) :
    (writeBytes m x vs).read (x + k) = some vs[k] := by
  rw [read_writeBytes, if_pos (by omega), Nat.add_sub_cancel_left]
  exact List.getElem?_eq_getElem h

theorem writeBytes_append (vs ws : List Byte) (m : Memory) (x : Nat) :
    writeBytes m x (vs ++ ws) = writeBytes (writeBytes m x vs) (x + vs.length) ws := by
  induction vs generalizing m x with
  | nil => simp [writeBytes]
  | cons v vs ih => simp [writeBytes, ih, Nat.add_assoc, Nat.add_comm 1]

/-- `readBytes` answers exactly when each byte reads, with those bytes. -/
theorem readBytes_eq_some {m : Memory} {x n : Nat} {bs : List Byte} :
    readBytes m x n = some bs ↔ bs.length = n ∧ ∀ k, k < n → m.read (x + k) = bs[k]? := by
  induction n generalizing x bs with
  | zero => cases bs <;> simp [readBytes]
  | succ n ih =>
    constructor
    · intro h
      simp only [readBytes] at h
      split at h
      · cases h
      · rename_i v hv
        split at h
        · cases h
        · rename_i vs hvs
          cases h
          obtain ⟨hl, hr⟩ := ih.1 hvs
          refine ⟨by simp [hl], fun k hk => ?_⟩
          cases k with
          | zero => simpa using hv
          | succ k => simpa [Nat.add_assoc, Nat.add_comm 1] using hr k (by omega)
    · rintro ⟨hl, hr⟩
      cases bs with
      | nil => simp at hl
      | cons v vs =>
        have h0 := hr 0 (by omega)
        simp only [Nat.add_zero, List.getElem?_cons_zero] at h0
        have ht : readBytes m (x + 1) n = some vs :=
          ih.2 ⟨by simpa using hl, fun k hk => by
            simpa [Nat.add_assoc, Nat.add_comm 1] using hr (k + 1) (by omega)⟩
        simp [readBytes, h0, ht]

theorem readBytes_length {m : Memory} {x n : Nat} {bs : List Byte} (h : readBytes m x n = some bs) :
    bs.length = n := (readBytes_eq_some.1 h).1

/-- Two buffers that read the same over a range give the same bytes there. -/
theorem readBytes_congr {m m' : Memory} {x n : Nat} (h : ∀ k, k < n → m.read (x + k) = m'.read (x + k)) :
    readBytes m x n = readBytes m' x n := by
  induction n generalizing x with
  | zero => rfl
  | succ n ih =>
    have h0 := h 0 (by omega)
    rw [Nat.add_zero] at h0
    have ht := ih (x := x + 1) (fun k hk => by
      simpa [Nat.add_assoc, Nat.add_comm 1] using h (k + 1) (by omega))
    simp [readBytes, h0, ht]

/-- Where every byte of the range has a value, `readBytes` answers. -/
theorem readBytes_isSome {m : Memory} {x n : Nat} (h : ∀ k, k < n → (m.read (x + k)).isSome) :
    ∃ bs, readBytes m x n = some bs := by
  induction n generalizing x with
  | zero => exact ⟨[], rfl⟩
  | succ n ih =>
    obtain ⟨v, hv⟩ := Option.isSome_iff_exists.1 (h 0 (by omega))
    rw [Nat.add_zero] at hv
    obtain ⟨vs, hvs⟩ := ih (x := x + 1) (fun k hk => by
      simpa [Nat.add_assoc, Nat.add_comm 1] using h (k + 1) (by omega))
    exact ⟨v :: vs, by simp [readBytes, hv, hvs]⟩

theorem readBytes_writeBytes_same (vs : List Byte) (m : Memory) (x : Nat) :
    readBytes (writeBytes m x vs) x vs.length = some vs :=
  readBytes_eq_some.2 ⟨rfl, fun k hk => by
    rw [read_writeBytes_inside vs m hk, List.getElem?_eq_getElem hk]⟩

theorem read_ofBytes (vs : List Byte) (x y : Nat) :
    (ofBytes x vs).read y = if x ≤ y then vs[y - x]? else none := by
  induction vs generalizing x with
  | nil => simp [ofBytes]
  | cons v vs ih =>
    rw [ofBytes, read_cons, ih]
    rcases Nat.lt_trichotomy y x with h | h | h
    · rw [if_neg (by omega), if_neg (by omega), if_neg (by omega)]
    · subst h; simp
    · obtain ⟨k, rfl⟩ : ∃ k, y = x + 1 + k := ⟨y - (x + 1), by omega⟩
      have e : x + 1 + k - x = k + 1 := by omega
      rw [if_neg (by omega), if_pos (by omega), if_pos (by omega), e]
      simp

/-! The canonical form. -/

@[simp] theorem wf_nil : wf [] = true := rfl

theorem wf_cons {a : Nat} {v : Byte} {m : Memory} :
    wf ((a, v) :: m) = true ↔ (∀ cell ∈ m, a < cell.1) ∧ wf m = true := by
  simp [wf]

theorem mem_write {m : Memory} {x : Nat} {v : Byte} {cell : Host.Cell} (h : cell ∈ write m x v) :
    cell = (x, v) ∨ cell ∈ m := by
  induction m with
  | nil => simpa [write] using h
  | cons c m ih =>
    obtain ⟨a, u⟩ := c
    simp only [write] at h
    split_ifs at h with h1 h2
    · simpa using h
    · rcases List.mem_cons.1 h with h | h
      · exact .inl h
      · exact .inr (List.mem_cons_of_mem _ h)
    · rcases List.mem_cons.1 h with h | h
      · exact .inr (by simp [h])
      · rcases ih h with h | h
        · exact .inl h
        · exact .inr (List.mem_cons_of_mem _ h)

/-- A store keeps the canonical form. -/
theorem write_wf {m : Memory} (h : wf m = true) (x : Nat) (v : Byte) : wf (write m x v) = true := by
  induction m with
  | nil => simp [write, wf]
  | cons c m ih =>
    obtain ⟨a, u⟩ := c
    obtain ⟨hlt, hm⟩ := wf_cons.1 h
    simp only [write]
    split_ifs with h1 h2
    · refine wf_cons.2 ⟨fun cell hc => ?_, h⟩
      rcases List.mem_cons.1 hc with rfl | hc
      · exact h1
      · exact Nat.lt_trans h1 (hlt cell hc)
    · subst h2
      exact wf_cons.2 ⟨hlt, hm⟩
    · refine wf_cons.2 ⟨fun cell hc => ?_, ih hm⟩
      rcases mem_write hc with rfl | hc
      · show a < x
        omega
      · exact hlt cell hc

theorem writeBytes_wf (vs : List Byte) {m : Memory} (h : wf m = true) (x : Nat) :
    wf (writeBytes m x vs) = true := by
  induction vs generalizing m x with
  | nil => exact h
  | cons v vs ih => exact ih (write_wf h x v) (x + 1)

theorem mem_ofBytes {vs : List Byte} {x : Nat} {cell : Host.Cell} (h : cell ∈ ofBytes x vs) : x ≤ cell.1 := by
  induction vs generalizing x with
  | nil => simp [ofBytes] at h
  | cons v vs ih =>
    rcases List.mem_cons.1 h with rfl | h
    · exact Nat.le_refl _
    · exact Nat.le_of_succ_le (ih h)

/-- A buffer the host provides is in canonical form. -/
theorem ofBytes_wf (vs : List Byte) (x : Nat) : wf (ofBytes x vs) = true := by
  induction vs generalizing x with
  | nil => rfl
  | cons v vs ih => exact wf_cons.2 ⟨fun cell hc => Nat.lt_of_succ_le (mem_ofBytes hc), ih (x + 1)⟩

theorem read_below {m : Memory} {x : Nat} (h : ∀ cell ∈ m, x < cell.1) : read m x = none := by
  induction m with
  | nil => rfl
  | cons c m ih =>
    obtain ⟨a, u⟩ := c
    have ha : x < a := h (a, u) (by simp)
    rw [read_cons, if_neg (by omega)]
    exact ih (fun cell hc => h cell (List.mem_cons_of_mem _ hc))

/-- What the form is canonical for: buffers that read the same everywhere are the same list. -/
theorem eq_of_read_eq {m m' : Memory} (h : wf m = true) (h' : wf m' = true) (e : ∀ x, m.read x = m'.read x) :
    m = m' := by
  induction m generalizing m' with
  | nil =>
    cases m' with
    | nil => rfl
    | cons c m' =>
      obtain ⟨a, u⟩ := c
      have := e a
      simp [read] at this
      cases this
  | cons c m ih =>
    obtain ⟨a, u⟩ := c
    obtain ⟨hlt, hm⟩ := wf_cons.1 h
    cases m' with
    | nil =>
      have := e a
      simp [read] at this
      cases this
    | cons c' m' =>
      obtain ⟨a', u'⟩ := c'
      obtain ⟨hlt', hm'⟩ := wf_cons.1 h'
      have haa : a = a' := by
        rcases Nat.lt_trichotomy a a' with hl | hl | hl
        · have := e a
          rw [read_cons, if_pos rfl, read_cons, if_neg (by omega),
            read_below (fun cell hc => Nat.lt_trans hl (hlt' cell hc))] at this
          cases this
        · exact hl
        · have := e a'
          rw [read_cons, if_neg (by omega), read_cons, if_pos rfl,
            read_below (fun cell hc => Nat.lt_trans hl (hlt cell hc))] at this
          cases this
      subst haa
      have huu : u = u' := by simpa [read] using e a
      subst huu
      have hmm : m = m' := ih hm hm' (fun x => by
        by_cases hx : a = x
        · subst hx
          rw [read_below hlt, read_below hlt']
        · simpa [read_cons, hx] using e x)
      rw [hmm]

end Sys2Proof.Machine.Memory
end

