-- ==== Sys2Proof/Laws/Header.lean ====
section
/-! SUPPORT. The Header Codec and the argument checks, said once. -/

namespace Sys2Proof.Machine

/-- 00_scope.md R12: `from_be` undoes `be16`. -/
theorem fromBe_be16 (v : BitVec 16) : BitVec.ofNat 16 (fromBe (be16 v)) = v := by
  apply BitVec.eq_of_toNat_eq
  have := v.isLt
  simp [fromBe, fromBeAcc, be16, Nat.shiftRight_eq_div_pow]
  omega

/-- 00_scope.md R12: `from_be` undoes `be32`. -/
theorem fromBe_be32 (v : BitVec 32) : BitVec.ofNat 32 (fromBe (be32 v)) = v := by
  apply BitVec.eq_of_toNat_eq
  have := v.isLt
  simp [fromBe, fromBeAcc, be32, Nat.shiftRight_eq_div_pow]
  omega

@[simp] theorem writeHeader_length (hd : Header) : (writeHeader hd).length = 12 := rfl

/-- A read of consecutive bytes is the reads of its two parts. -/
theorem Memory.readBytes_split {m : Memory} {x a b : Nat} {p q : List Byte} (ha : p.length = a) (hb : q.length = b)
    (h : m.readBytes x (a + b) = some (p ++ q)) : m.readBytes x a = some p ∧ m.readBytes (x + a) b = some q := by
  obtain ⟨-, h2⟩ := Memory.readBytes_eq_some.1 h
  constructor
  · refine Memory.readBytes_eq_some.2 ⟨ha, fun k hk => ?_⟩
    rw [h2 k (by omega), List.getElem?_append_left (by omega)]
  · refine Memory.readBytes_eq_some.2 ⟨hb, fun k hk => ?_⟩
    rw [Nat.add_assoc, h2 (a + k) (by omega), List.getElem?_append_right (by omega)]
    congr
    omega

/-- 41_header_codec.md R127: of a stream that begins with a written header, the checks are those of its fields. -/
theorem readHeader_written {src : Memory} {hd : Header} (h : src.readBytes 0 12 = some (writeHeader hd)) {len : Nat}
    (hl : 12 ≤ len) : readHeader src len = some (checkFields hd len) := by
  obtain ⟨h1, h2⟩ := Memory.readBytes_split (x := 0) (a := 8) (b := 4)
    (p := Config.magic ++ be16 hd.width ++ be16 hd.height) (q := be32 hd.bodyLength) rfl rfl h
  obtain ⟨h1, h3⟩ := Memory.readBytes_split (x := 0) (a := 6) (b := 2)
    (p := Config.magic ++ be16 hd.width) (q := be16 hd.height) rfl rfl h1
  obtain ⟨h1, h4⟩ := Memory.readBytes_split (x := 0) (a := 4) (b := 2)
    (p := Config.magic) (q := be16 hd.width) rfl rfl h1
  simp only [Nat.zero_add] at *
  simp only [readHeader]
  rw [if_neg (show ¬ len < Config.headerLen by simp only [Config.headerLen]; omega), h1]
  simp [h2, h3, h4, parseFields, fromBe_be16, fromBe_be32]

/-- 10_state.md R30: the dimension check. -/
theorem dimensionLegal_iff {v : BitVec 32} : dimensionLegal v = true ↔ 1 ≤ v.toNat ∧ v.toNat ≤ 65535 := by
  simp only [dimensionLegal, Bool.and_eq_true, decide_eq_true_eq]

/-- R30: 3 and 4 are the legal channel counts, and a legal count is the number of bytes of a pixel. -/
theorem ofArg_legal {v : BitVec 32} (h : v = 3 ∨ v = 4) : ∃ c, Channels.ofArg v = some c ∧ c.count = v.toNat := by
  rcases h with rfl | rfl
  · exact ⟨.three, rfl, rfl⟩
  · exact ⟨.four, rfl, rfl⟩

theorem ofArg_illegal {v : BitVec 32} (h : v ≠ 3 ∧ v ≠ 4) : Channels.ofArg v = none := by
  simp only [Channels.ofArg]
  rw [if_neg h.1, if_neg h.2]

/-- 10_state.md R20: N does not wrap. -/
theorem pixelCount_toNat (w h : BitVec 16) : (BitVec.ofNat 32 (w.toNat * h.toNat)).toNat = w.toNat * h.toNat := by
  have := w.isLt
  have := h.isLt
  have : w.toNat * h.toNat ≤ 65535 * 65535 := Nat.mul_le_mul (by omega) (by omega)
  rw [BitVec.toNat_ofNat]
  omega

end Sys2Proof.Machine
end

