-- ==== Sys2Proof/Laws/State.lean ====
section
/-! SUPPORT. What each named update does to each field of State: one lemma a field, true by rfl. -/

namespace Sys2Proof.Machine

variable (s : State)

/-! advance -/

@[simp] theorem advance_cfg (k : Nat) : (s.advance k).cfg = s.cfg := rfl
@[simp] theorem advance_cache (k : Nat) : (s.advance k).cache = s.cache := rfl
@[simp] theorem advance_px (k : Nat) : (s.advance k).px = s.px := rfl
@[simp] theorem advance_run (k : Nat) : (s.advance k).run = s.run := rfl
@[simp] theorem advance_cur (k : Nat) : (s.advance k).cur = s.cur + BitVec.ofNat 64 k := rfl
@[simp] theorem advance_pos (k : Nat) : (s.advance k).pos = s.pos := rfl
@[simp] theorem advance_w (k : Nat) : (s.advance k).w = s.w := rfl
@[simp] theorem advance_h (k : Nat) : (s.advance k).h = s.h := rfl
@[simp] theorem advance_c (k : Nat) : (s.advance k).c = s.c := rfl
@[simp] theorem advance_n (k : Nat) : (s.advance k).n = s.n := rfl
@[simp] theorem advance_cdl (k : Nat) : (s.advance k).cdl = s.cdl := rfl
@[simp] theorem advance_mode (k : Nat) : (s.advance k).mode = s.mode := rfl
@[simp] theorem advance_argWidth (k : Nat) : (s.advance k).argWidth = s.argWidth := rfl
@[simp] theorem advance_argHeight (k : Nat) : (s.advance k).argHeight = s.argHeight := rfl
@[simp] theorem advance_argChannels (k : Nat) : (s.advance k).argChannels = s.argChannels := rfl
@[simp] theorem advance_argSrcLen (k : Nat) : (s.advance k).argSrcLen = s.argSrcLen := rfl
@[simp] theorem advance_status (k : Nat) : (s.advance k).status = s.status := rfl
@[simp] theorem advance_errClass (k : Nat) : (s.advance k).errClass = s.errClass := rfl
@[simp] theorem advance_errCause (k : Nat) : (s.advance k).errCause = s.errCause := rfl
@[simp] theorem advance_resWidth (k : Nat) : (s.advance k).resWidth = s.resWidth := rfl
@[simp] theorem advance_resHeight (k : Nat) : (s.advance k).resHeight = s.resHeight := rfl
@[simp] theorem advance_resLen (k : Nat) : (s.advance k).resLen = s.resLen := rfl
@[simp] theorem advance_src (k : Nat) : (s.advance k).src = s.src := rfl
@[simp] theorem advance_dst (k : Nat) : (s.advance k).dst = s.dst := rfl
@[simp] theorem advance_inbox (k : Nat) : (s.advance k).inbox = s.inbox := rfl
@[simp] theorem advance_freeCtr (k : Nat) : (s.advance k).freeCtr = s.freeCtr := rfl

/-! setPx -/

@[simp] theorem setPx_cfg (p : Pixel) : (s.setPx p).cfg = s.cfg := rfl
@[simp] theorem setPx_cache (p : Pixel) : (s.setPx p).cache = s.cache := rfl
@[simp] theorem setPx_px (p : Pixel) : (s.setPx p).px = p := rfl
@[simp] theorem setPx_run (p : Pixel) : (s.setPx p).run = s.run := rfl
@[simp] theorem setPx_cur (p : Pixel) : (s.setPx p).cur = s.cur := rfl
@[simp] theorem setPx_pos (p : Pixel) : (s.setPx p).pos = s.pos := rfl
@[simp] theorem setPx_w (p : Pixel) : (s.setPx p).w = s.w := rfl
@[simp] theorem setPx_h (p : Pixel) : (s.setPx p).h = s.h := rfl
@[simp] theorem setPx_c (p : Pixel) : (s.setPx p).c = s.c := rfl
@[simp] theorem setPx_n (p : Pixel) : (s.setPx p).n = s.n := rfl
@[simp] theorem setPx_cdl (p : Pixel) : (s.setPx p).cdl = s.cdl := rfl
@[simp] theorem setPx_mode (p : Pixel) : (s.setPx p).mode = s.mode := rfl
@[simp] theorem setPx_argWidth (p : Pixel) : (s.setPx p).argWidth = s.argWidth := rfl
@[simp] theorem setPx_argHeight (p : Pixel) : (s.setPx p).argHeight = s.argHeight := rfl
@[simp] theorem setPx_argChannels (p : Pixel) : (s.setPx p).argChannels = s.argChannels := rfl
@[simp] theorem setPx_argSrcLen (p : Pixel) : (s.setPx p).argSrcLen = s.argSrcLen := rfl
@[simp] theorem setPx_status (p : Pixel) : (s.setPx p).status = s.status := rfl
@[simp] theorem setPx_errClass (p : Pixel) : (s.setPx p).errClass = s.errClass := rfl
@[simp] theorem setPx_errCause (p : Pixel) : (s.setPx p).errCause = s.errCause := rfl
@[simp] theorem setPx_resWidth (p : Pixel) : (s.setPx p).resWidth = s.resWidth := rfl
@[simp] theorem setPx_resHeight (p : Pixel) : (s.setPx p).resHeight = s.resHeight := rfl
@[simp] theorem setPx_resLen (p : Pixel) : (s.setPx p).resLen = s.resLen := rfl
@[simp] theorem setPx_src (p : Pixel) : (s.setPx p).src = s.src := rfl
@[simp] theorem setPx_dst (p : Pixel) : (s.setPx p).dst = s.dst := rfl
@[simp] theorem setPx_inbox (p : Pixel) : (s.setPx p).inbox = s.inbox := rfl
@[simp] theorem setPx_freeCtr (p : Pixel) : (s.setPx p).freeCtr = s.freeCtr := rfl

/-! setRun -/

@[simp] theorem setRun_cfg (v : BitVec 14) : (s.setRun v).cfg = s.cfg := rfl
@[simp] theorem setRun_cache (v : BitVec 14) : (s.setRun v).cache = s.cache := rfl
@[simp] theorem setRun_px (v : BitVec 14) : (s.setRun v).px = s.px := rfl
@[simp] theorem setRun_run (v : BitVec 14) : (s.setRun v).run = v := rfl
@[simp] theorem setRun_cur (v : BitVec 14) : (s.setRun v).cur = s.cur := rfl
@[simp] theorem setRun_pos (v : BitVec 14) : (s.setRun v).pos = s.pos := rfl
@[simp] theorem setRun_w (v : BitVec 14) : (s.setRun v).w = s.w := rfl
@[simp] theorem setRun_h (v : BitVec 14) : (s.setRun v).h = s.h := rfl
@[simp] theorem setRun_c (v : BitVec 14) : (s.setRun v).c = s.c := rfl
@[simp] theorem setRun_n (v : BitVec 14) : (s.setRun v).n = s.n := rfl
@[simp] theorem setRun_cdl (v : BitVec 14) : (s.setRun v).cdl = s.cdl := rfl
@[simp] theorem setRun_mode (v : BitVec 14) : (s.setRun v).mode = s.mode := rfl
@[simp] theorem setRun_argWidth (v : BitVec 14) : (s.setRun v).argWidth = s.argWidth := rfl
@[simp] theorem setRun_argHeight (v : BitVec 14) : (s.setRun v).argHeight = s.argHeight := rfl
@[simp] theorem setRun_argChannels (v : BitVec 14) : (s.setRun v).argChannels = s.argChannels := rfl
@[simp] theorem setRun_argSrcLen (v : BitVec 14) : (s.setRun v).argSrcLen = s.argSrcLen := rfl
@[simp] theorem setRun_status (v : BitVec 14) : (s.setRun v).status = s.status := rfl
@[simp] theorem setRun_errClass (v : BitVec 14) : (s.setRun v).errClass = s.errClass := rfl
@[simp] theorem setRun_errCause (v : BitVec 14) : (s.setRun v).errCause = s.errCause := rfl
@[simp] theorem setRun_resWidth (v : BitVec 14) : (s.setRun v).resWidth = s.resWidth := rfl
@[simp] theorem setRun_resHeight (v : BitVec 14) : (s.setRun v).resHeight = s.resHeight := rfl
@[simp] theorem setRun_resLen (v : BitVec 14) : (s.setRun v).resLen = s.resLen := rfl
@[simp] theorem setRun_src (v : BitVec 14) : (s.setRun v).src = s.src := rfl
@[simp] theorem setRun_dst (v : BitVec 14) : (s.setRun v).dst = s.dst := rfl
@[simp] theorem setRun_inbox (v : BitVec 14) : (s.setRun v).inbox = s.inbox := rfl
@[simp] theorem setRun_freeCtr (v : BitVec 14) : (s.setRun v).freeCtr = s.freeCtr := rfl

/-! record -/

@[simp] theorem record_cfg (p : Pixel) : (s.record p).cfg = s.cfg := rfl
@[simp] theorem record_cache (p : Pixel) : (s.record p).cache = cacheUpdate s.cache p := rfl
@[simp] theorem record_px (p : Pixel) : (s.record p).px = p := rfl
@[simp] theorem record_run (p : Pixel) : (s.record p).run = s.run := rfl
@[simp] theorem record_cur (p : Pixel) : (s.record p).cur = s.cur := rfl
@[simp] theorem record_pos (p : Pixel) : (s.record p).pos = s.pos := rfl
@[simp] theorem record_w (p : Pixel) : (s.record p).w = s.w := rfl
@[simp] theorem record_h (p : Pixel) : (s.record p).h = s.h := rfl
@[simp] theorem record_c (p : Pixel) : (s.record p).c = s.c := rfl
@[simp] theorem record_n (p : Pixel) : (s.record p).n = s.n := rfl
@[simp] theorem record_cdl (p : Pixel) : (s.record p).cdl = s.cdl := rfl
@[simp] theorem record_mode (p : Pixel) : (s.record p).mode = s.mode := rfl
@[simp] theorem record_argWidth (p : Pixel) : (s.record p).argWidth = s.argWidth := rfl
@[simp] theorem record_argHeight (p : Pixel) : (s.record p).argHeight = s.argHeight := rfl
@[simp] theorem record_argChannels (p : Pixel) : (s.record p).argChannels = s.argChannels := rfl
@[simp] theorem record_argSrcLen (p : Pixel) : (s.record p).argSrcLen = s.argSrcLen := rfl
@[simp] theorem record_status (p : Pixel) : (s.record p).status = s.status := rfl
@[simp] theorem record_errClass (p : Pixel) : (s.record p).errClass = s.errClass := rfl
@[simp] theorem record_errCause (p : Pixel) : (s.record p).errCause = s.errCause := rfl
@[simp] theorem record_resWidth (p : Pixel) : (s.record p).resWidth = s.resWidth := rfl
@[simp] theorem record_resHeight (p : Pixel) : (s.record p).resHeight = s.resHeight := rfl
@[simp] theorem record_resLen (p : Pixel) : (s.record p).resLen = s.resLen := rfl
@[simp] theorem record_src (p : Pixel) : (s.record p).src = s.src := rfl
@[simp] theorem record_dst (p : Pixel) : (s.record p).dst = s.dst := rfl
@[simp] theorem record_inbox (p : Pixel) : (s.record p).inbox = s.inbox := rfl
@[simp] theorem record_freeCtr (p : Pixel) : (s.record p).freeCtr = s.freeCtr := rfl

/-! emit -/

@[simp] theorem emit_cfg (bs : List Byte) : (s.emit bs).cfg = s.cfg := rfl
@[simp] theorem emit_cache (bs : List Byte) : (s.emit bs).cache = s.cache := rfl
@[simp] theorem emit_px (bs : List Byte) : (s.emit bs).px = s.px := rfl
@[simp] theorem emit_run (bs : List Byte) : (s.emit bs).run = s.run := rfl
@[simp] theorem emit_cur (bs : List Byte) : (s.emit bs).cur = s.cur + BitVec.ofNat 64 bs.length := rfl
@[simp] theorem emit_pos (bs : List Byte) : (s.emit bs).pos = s.pos := rfl
@[simp] theorem emit_w (bs : List Byte) : (s.emit bs).w = s.w := rfl
@[simp] theorem emit_h (bs : List Byte) : (s.emit bs).h = s.h := rfl
@[simp] theorem emit_c (bs : List Byte) : (s.emit bs).c = s.c := rfl
@[simp] theorem emit_n (bs : List Byte) : (s.emit bs).n = s.n := rfl
@[simp] theorem emit_cdl (bs : List Byte) : (s.emit bs).cdl = s.cdl := rfl
@[simp] theorem emit_mode (bs : List Byte) : (s.emit bs).mode = s.mode := rfl
@[simp] theorem emit_argWidth (bs : List Byte) : (s.emit bs).argWidth = s.argWidth := rfl
@[simp] theorem emit_argHeight (bs : List Byte) : (s.emit bs).argHeight = s.argHeight := rfl
@[simp] theorem emit_argChannels (bs : List Byte) : (s.emit bs).argChannels = s.argChannels := rfl
@[simp] theorem emit_argSrcLen (bs : List Byte) : (s.emit bs).argSrcLen = s.argSrcLen := rfl
@[simp] theorem emit_status (bs : List Byte) : (s.emit bs).status = s.status := rfl
@[simp] theorem emit_errClass (bs : List Byte) : (s.emit bs).errClass = s.errClass := rfl
@[simp] theorem emit_errCause (bs : List Byte) : (s.emit bs).errCause = s.errCause := rfl
@[simp] theorem emit_resWidth (bs : List Byte) : (s.emit bs).resWidth = s.resWidth := rfl
@[simp] theorem emit_resHeight (bs : List Byte) : (s.emit bs).resHeight = s.resHeight := rfl
@[simp] theorem emit_resLen (bs : List Byte) : (s.emit bs).resLen = s.resLen := rfl
@[simp] theorem emit_src (bs : List Byte) : (s.emit bs).src = s.src := rfl
@[simp] theorem emit_dst (bs : List Byte) : (s.emit bs).dst = s.dst.writeBytes s.cursorOffset bs := rfl
@[simp] theorem emit_inbox (bs : List Byte) : (s.emit bs).inbox = s.inbox := rfl
@[simp] theorem emit_freeCtr (bs : List Byte) : (s.emit bs).freeCtr = s.freeCtr := rfl

/-! storePixel -/

@[simp] theorem storePixel_cfg : s.storePixel.cfg = s.cfg := rfl
@[simp] theorem storePixel_cache : s.storePixel.cache = s.cache := rfl
@[simp] theorem storePixel_px : s.storePixel.px = s.px := rfl
@[simp] theorem storePixel_run : s.storePixel.run = s.run := rfl
@[simp] theorem storePixel_cur : s.storePixel.cur = s.cur := rfl
@[simp] theorem storePixel_pos : s.storePixel.pos = s.pos + 1 := rfl
@[simp] theorem storePixel_w : s.storePixel.w = s.w := rfl
@[simp] theorem storePixel_h : s.storePixel.h = s.h := rfl
@[simp] theorem storePixel_c : s.storePixel.c = s.c := rfl
@[simp] theorem storePixel_n : s.storePixel.n = s.n := rfl
@[simp] theorem storePixel_cdl : s.storePixel.cdl = s.cdl := rfl
@[simp] theorem storePixel_mode : s.storePixel.mode = s.mode := rfl
@[simp] theorem storePixel_argWidth : s.storePixel.argWidth = s.argWidth := rfl
@[simp] theorem storePixel_argHeight : s.storePixel.argHeight = s.argHeight := rfl
@[simp] theorem storePixel_argChannels : s.storePixel.argChannels = s.argChannels := rfl
@[simp] theorem storePixel_argSrcLen : s.storePixel.argSrcLen = s.argSrcLen := rfl
@[simp] theorem storePixel_status : s.storePixel.status = s.status := rfl
@[simp] theorem storePixel_errClass : s.storePixel.errClass = s.errClass := rfl
@[simp] theorem storePixel_errCause : s.storePixel.errCause = s.errCause := rfl
@[simp] theorem storePixel_resWidth : s.storePixel.resWidth = s.resWidth := rfl
@[simp] theorem storePixel_resHeight : s.storePixel.resHeight = s.resHeight := rfl
@[simp] theorem storePixel_resLen : s.storePixel.resLen = s.resLen := rfl
@[simp] theorem storePixel_src : s.storePixel.src = s.src := rfl
@[simp] theorem storePixel_dst : s.storePixel.dst = s.dst.writeBytes s.pixelOffset (pixelBytes s.c s.px) := rfl
@[simp] theorem storePixel_inbox : s.storePixel.inbox = s.inbox := rfl
@[simp] theorem storePixel_freeCtr : s.storePixel.freeCtr = s.freeCtr := rfl

/-! nextPixel -/

@[simp] theorem nextPixel_cfg (p : Pixel) : (s.nextPixel p).cfg = s.cfg := rfl
@[simp] theorem nextPixel_cache (p : Pixel) : (s.nextPixel p).cache = s.cache := rfl
@[simp] theorem nextPixel_px (p : Pixel) : (s.nextPixel p).px = p := rfl
@[simp] theorem nextPixel_run (p : Pixel) : (s.nextPixel p).run = s.run := rfl
@[simp] theorem nextPixel_cur (p : Pixel) : (s.nextPixel p).cur = s.cur := rfl
@[simp] theorem nextPixel_pos (p : Pixel) : (s.nextPixel p).pos = s.pos + 1 := rfl
@[simp] theorem nextPixel_w (p : Pixel) : (s.nextPixel p).w = s.w := rfl
@[simp] theorem nextPixel_h (p : Pixel) : (s.nextPixel p).h = s.h := rfl
@[simp] theorem nextPixel_c (p : Pixel) : (s.nextPixel p).c = s.c := rfl
@[simp] theorem nextPixel_n (p : Pixel) : (s.nextPixel p).n = s.n := rfl
@[simp] theorem nextPixel_cdl (p : Pixel) : (s.nextPixel p).cdl = s.cdl := rfl
@[simp] theorem nextPixel_mode (p : Pixel) : (s.nextPixel p).mode = s.mode := rfl
@[simp] theorem nextPixel_argWidth (p : Pixel) : (s.nextPixel p).argWidth = s.argWidth := rfl
@[simp] theorem nextPixel_argHeight (p : Pixel) : (s.nextPixel p).argHeight = s.argHeight := rfl
@[simp] theorem nextPixel_argChannels (p : Pixel) : (s.nextPixel p).argChannels = s.argChannels := rfl
@[simp] theorem nextPixel_argSrcLen (p : Pixel) : (s.nextPixel p).argSrcLen = s.argSrcLen := rfl
@[simp] theorem nextPixel_status (p : Pixel) : (s.nextPixel p).status = s.status := rfl
@[simp] theorem nextPixel_errClass (p : Pixel) : (s.nextPixel p).errClass = s.errClass := rfl
@[simp] theorem nextPixel_errCause (p : Pixel) : (s.nextPixel p).errCause = s.errCause := rfl
@[simp] theorem nextPixel_resWidth (p : Pixel) : (s.nextPixel p).resWidth = s.resWidth := rfl
@[simp] theorem nextPixel_resHeight (p : Pixel) : (s.nextPixel p).resHeight = s.resHeight := rfl
@[simp] theorem nextPixel_resLen (p : Pixel) : (s.nextPixel p).resLen = s.resLen := rfl
@[simp] theorem nextPixel_src (p : Pixel) : (s.nextPixel p).src = s.src := rfl
@[simp] theorem nextPixel_dst (p : Pixel) : (s.nextPixel p).dst = s.dst := rfl
@[simp] theorem nextPixel_inbox (p : Pixel) : (s.nextPixel p).inbox = s.inbox := rfl
@[simp] theorem nextPixel_freeCtr (p : Pixel) : (s.nextPixel p).freeCtr = s.freeCtr := rfl

/-! raise -/

@[simp] theorem raise_cfg (e : CodecError) : (s.raise e).cfg = s.cfg := rfl
@[simp] theorem raise_cache (e : CodecError) : (s.raise e).cache = s.cache := rfl
@[simp] theorem raise_px (e : CodecError) : (s.raise e).px = s.px := rfl
@[simp] theorem raise_run (e : CodecError) : (s.raise e).run = s.run := rfl
@[simp] theorem raise_cur (e : CodecError) : (s.raise e).cur = s.cur := rfl
@[simp] theorem raise_pos (e : CodecError) : (s.raise e).pos = s.pos := rfl
@[simp] theorem raise_w (e : CodecError) : (s.raise e).w = s.w := rfl
@[simp] theorem raise_h (e : CodecError) : (s.raise e).h = s.h := rfl
@[simp] theorem raise_c (e : CodecError) : (s.raise e).c = s.c := rfl
@[simp] theorem raise_n (e : CodecError) : (s.raise e).n = s.n := rfl
@[simp] theorem raise_cdl (e : CodecError) : (s.raise e).cdl = s.cdl := rfl
@[simp] theorem raise_mode (e : CodecError) : (s.raise e).mode = .error := rfl
@[simp] theorem raise_argWidth (e : CodecError) : (s.raise e).argWidth = s.argWidth := rfl
@[simp] theorem raise_argHeight (e : CodecError) : (s.raise e).argHeight = s.argHeight := rfl
@[simp] theorem raise_argChannels (e : CodecError) : (s.raise e).argChannels = s.argChannels := rfl
@[simp] theorem raise_argSrcLen (e : CodecError) : (s.raise e).argSrcLen = s.argSrcLen := rfl
@[simp] theorem raise_status (e : CodecError) : (s.raise e).status = s.status.raised := rfl
@[simp] theorem raise_errClass (e : CodecError) : (s.raise e).errClass = e.classCode := rfl
@[simp] theorem raise_errCause (e : CodecError) : (s.raise e).errCause = e.causeCode := rfl
@[simp] theorem raise_resWidth (e : CodecError) : (s.raise e).resWidth = s.resWidth := rfl
@[simp] theorem raise_resHeight (e : CodecError) : (s.raise e).resHeight = s.resHeight := rfl
@[simp] theorem raise_resLen (e : CodecError) : (s.raise e).resLen = s.resLen := rfl
@[simp] theorem raise_src (e : CodecError) : (s.raise e).src = s.src := rfl
@[simp] theorem raise_dst (e : CodecError) : (s.raise e).dst = s.dst := rfl
@[simp] theorem raise_inbox (e : CodecError) : (s.raise e).inbox = s.inbox := rfl
@[simp] theorem raise_freeCtr (e : CodecError) : (s.raise e).freeCtr = s.freeCtr := rfl

/-! accept -/

@[simp] theorem accept_cfg : s.accept.cfg = s.cfg := rfl
@[simp] theorem accept_cache : s.accept.cache = s.cache := rfl
@[simp] theorem accept_px : s.accept.px = s.px := rfl
@[simp] theorem accept_run : s.accept.run = s.run := rfl
@[simp] theorem accept_cur : s.accept.cur = s.cur := rfl
@[simp] theorem accept_pos : s.accept.pos = s.pos := rfl
@[simp] theorem accept_w : s.accept.w = s.w := rfl
@[simp] theorem accept_h : s.accept.h = s.h := rfl
@[simp] theorem accept_c : s.accept.c = s.c := rfl
@[simp] theorem accept_n : s.accept.n = s.n := rfl
@[simp] theorem accept_cdl : s.accept.cdl = s.cdl := rfl
@[simp] theorem accept_mode : s.accept.mode = s.mode := rfl
@[simp] theorem accept_argWidth : s.accept.argWidth = s.argWidth := rfl
@[simp] theorem accept_argHeight : s.accept.argHeight = s.argHeight := rfl
@[simp] theorem accept_argChannels : s.accept.argChannels = s.argChannels := rfl
@[simp] theorem accept_argSrcLen : s.accept.argSrcLen = s.argSrcLen := rfl
@[simp] theorem accept_status : s.accept.status = s.status.accepted := rfl
@[simp] theorem accept_errClass : s.accept.errClass = s.errClass := rfl
@[simp] theorem accept_errCause : s.accept.errCause = s.errCause := rfl
@[simp] theorem accept_resWidth : s.accept.resWidth = s.resWidth := rfl
@[simp] theorem accept_resHeight : s.accept.resHeight = s.resHeight := rfl
@[simp] theorem accept_resLen : s.accept.resLen = s.resLen := rfl
@[simp] theorem accept_src : s.accept.src = s.src := rfl
@[simp] theorem accept_dst : s.accept.dst = s.dst := rfl
@[simp] theorem accept_inbox : s.accept.inbox = s.inbox := rfl
@[simp] theorem accept_freeCtr : s.accept.freeCtr = s.freeCtr := rfl

/-! initPass -/

@[simp] theorem initPass_cfg (m : Mode) (w h : BitVec 16) (c : Channels) : (s.initPass m w h c).cfg = s.cfg := rfl
@[simp] theorem initPass_cache (m : Mode) (w h : BitVec 16) (c : Channels) : (s.initPass m w h c).cache = cacheClear := rfl
@[simp] theorem initPass_px (m : Mode) (w h : BitVec 16) (c : Channels) : (s.initPass m w h c).px = Config.pxInit := rfl
@[simp] theorem initPass_run (m : Mode) (w h : BitVec 16) (c : Channels) : (s.initPass m w h c).run = 0 := rfl
@[simp] theorem initPass_cur (m : Mode) (w h : BitVec 16) (c : Channels) : (s.initPass m w h c).cur = 0 := rfl
@[simp] theorem initPass_pos (m : Mode) (w h : BitVec 16) (c : Channels) : (s.initPass m w h c).pos = 0 := rfl
@[simp] theorem initPass_w (m : Mode) (w h : BitVec 16) (c : Channels) : (s.initPass m w h c).w = w := rfl
@[simp] theorem initPass_h (m : Mode) (w h : BitVec 16) (c : Channels) : (s.initPass m w h c).h = h := rfl
@[simp] theorem initPass_c (m : Mode) (w h : BitVec 16) (c : Channels) : (s.initPass m w h c).c = c := rfl
@[simp] theorem initPass_n (m : Mode) (w h : BitVec 16) (c : Channels) : (s.initPass m w h c).n = BitVec.ofNat 32 (w.toNat * h.toNat) := rfl
@[simp] theorem initPass_cdl (m : Mode) (w h : BitVec 16) (c : Channels) : (s.initPass m w h c).cdl = s.cdl := rfl
@[simp] theorem initPass_mode (m : Mode) (w h : BitVec 16) (c : Channels) : (s.initPass m w h c).mode = m := rfl
@[simp] theorem initPass_argWidth (m : Mode) (w h : BitVec 16) (c : Channels) : (s.initPass m w h c).argWidth = s.argWidth := rfl
@[simp] theorem initPass_argHeight (m : Mode) (w h : BitVec 16) (c : Channels) : (s.initPass m w h c).argHeight = s.argHeight := rfl
@[simp] theorem initPass_argChannels (m : Mode) (w h : BitVec 16) (c : Channels) : (s.initPass m w h c).argChannels = s.argChannels := rfl
@[simp] theorem initPass_argSrcLen (m : Mode) (w h : BitVec 16) (c : Channels) : (s.initPass m w h c).argSrcLen = s.argSrcLen := rfl
@[simp] theorem initPass_status (m : Mode) (w h : BitVec 16) (c : Channels) : (s.initPass m w h c).status = Status.started := rfl
@[simp] theorem initPass_errClass (m : Mode) (w h : BitVec 16) (c : Channels) : (s.initPass m w h c).errClass = s.errClass := rfl
@[simp] theorem initPass_errCause (m : Mode) (w h : BitVec 16) (c : Channels) : (s.initPass m w h c).errCause = s.errCause := rfl
@[simp] theorem initPass_resWidth (m : Mode) (w h : BitVec 16) (c : Channels) : (s.initPass m w h c).resWidth = (Config.freeValue s.freeCtr).setWidth 16 := rfl
@[simp] theorem initPass_resHeight (m : Mode) (w h : BitVec 16) (c : Channels) : (s.initPass m w h c).resHeight = (Config.freeValue (s.freeCtr + 1)).setWidth 16 := rfl
@[simp] theorem initPass_resLen (m : Mode) (w h : BitVec 16) (c : Channels) : (s.initPass m w h c).resLen = Config.freeValue (s.freeCtr + 2) := rfl
@[simp] theorem initPass_src (m : Mode) (w h : BitVec 16) (c : Channels) : (s.initPass m w h c).src = s.src := rfl
@[simp] theorem initPass_dst (m : Mode) (w h : BitVec 16) (c : Channels) : (s.initPass m w h c).dst = s.dst := rfl
@[simp] theorem initPass_inbox (m : Mode) (w h : BitVec 16) (c : Channels) : (s.initPass m w h c).inbox = s.inbox := rfl
@[simp] theorem initPass_freeCtr (m : Mode) (w h : BitVec 16) (c : Channels) : (s.initPass m w h c).freeCtr = s.freeCtr + 3 := rfl

end Sys2Proof.Machine
end

