-- ==== Sys2Proof/Laws/Ops.lean ====
section
/-! SUPPORT. One lemma for what each shared operation does. -/

namespace Sys2Proof.Machine

/-! Operands. -/

/-- 42_chunk_encoder.md R161: the wraparound addition undoes the plain subtraction. -/
theorem addDelta_delta (new old : Byte) : addDelta old (delta new old) = new := by
  simp only [addDelta, delta, wrap8]
  rw [show (old.toNat : Int) + ((new.toNat : Int) - old.toNat) = (new.toNat : Int) by omega, BitVec.ofInt_natCast,
    BitVec.ofNat_toNat, BitVec.setWidth_eq]

theorem addDelta_zero (old : Byte) : addDelta old 0 = old := by
  simp [addDelta, wrap8]

theorem delta_eq_zero {new old : Byte} : delta new old = 0 ↔ new = old := by
  rw [← BitVec.toNat_inj]
  simp only [delta]
  omega

/-- R150: a delta lies in -255..255. -/
theorem delta_bounds (new old : Byte) : -255 ≤ delta new old ∧ delta new old ≤ 255 := by
  have := new.isLt
  have := old.isLt
  simp only [delta]
  omega

theorem changedLiteral_getD (new old : Byte) : (changedLiteral new old).getD old = new := by
  simp only [changedLiteral]
  split_ifs with h
  · rfl
  · simpa using (delta_eq_zero.1 (not_not.1 h)).symm

@[simp] theorem pixelBytes_length (c : Channels) (p : Pixel) : (pixelBytes c p).length = c.count := by
  cases c <;> rfl

theorem count_bounds (c : Channels) : 3 ≤ c.count ∧ c.count ≤ 4 := by
  cases c <;> decide

theorem pixelOfBytes_isSome {c : Channels} {bs : List Byte} (h : bs.length = c.count) :
    ∃ p, pixelOfBytes bs = some p := by
  cases c <;> simp only [Channels.count] at h
  · match bs, h with
    | [r, g, b], _ => exact ⟨_, rfl⟩
  · match bs, h with
    | [r, g, b, a], _ => exact ⟨_, rfl⟩

@[simp] theorem be16_length (v : BitVec 16) : (be16 v).length = 2 := rfl
@[simp] theorem be32_length (v : BitVec 32) : (be32 v).length = 4 := rfl

/-! The Color Cache. -/

theorem cacheLookup_update (cache : Vector Pixel 64) (p : Pixel) (i : Fin 64) :
    cacheLookup (cacheUpdate cache p) i = if hash p = i then p else cacheLookup cache i := by
  simp only [cacheLookup, cacheUpdate]
  rw [Vector.getElem_set]
  simp [Fin.ext_iff]

@[simp] theorem cacheLookup_clear (i : Fin 64) : cacheLookup cacheClear i = ⟨0, 0, 0, 0⟩ := by
  simp [cacheLookup, cacheClear, Config.slotInit]

theorem cacheMatch_iff {cache : Vector Pixel 64} {p : Pixel} :
    cacheMatch cache p = true ↔ cacheLookup cache (hash p) = p := by
  simp [cacheMatch]

/-- 40_color_cache.md R116: on a match the write would change nothing. -/
theorem cacheUpdate_of_match {cache : Vector Pixel 64} {p : Pixel} (h : cacheMatch cache p = true) :
    cacheUpdate cache p = cache := by
  apply Vector.ext
  intro i hi
  have := cacheLookup_update cache p ⟨i, hi⟩
  simp only [cacheLookup] at this
  rw [this]
  split_ifs with e
  · have e' := cacheMatch_iff.1 h
    simp only [cacheLookup, e] at e'
    exact e'.symm
  · rfl

/-! Buffers. -/

/-- The pixel load answers exactly when SRC holds the bytes of pixel POS. -/
theorem loadPixel_isSome {s : State}
    (h : ∀ k, k < s.c.count → (s.src.read (s.pixelOffset + k)).isSome) : ∃ p, s.loadPixel = some p := by
  obtain ⟨bs, hbs⟩ := Memory.readBytes_isSome h
  obtain ⟨p, hp⟩ := pixelOfBytes_isSome (c := s.c) (Memory.readBytes_length hbs)
  exact ⟨p, by simp [State.loadPixel, hbs, hp]⟩

/-- 43_chunk_decoder.md R194: what the pixel store leaves at every offset of DST. -/
theorem storePixel_read (s : State) (y : Nat) :
    s.storePixel.dst.read y =
      if s.pixelOffset ≤ y ∧ y < s.pixelOffset + s.c.count then (pixelBytes s.c s.px)[y - s.pixelOffset]?
      else s.dst.read y := by
  simp [Memory.read_writeBytes]

/-- 42_chunk_encoder.md R141: what emitting bytes leaves at every offset of DST. -/
theorem emit_read (s : State) (bs : List Byte) (y : Nat) :
    (s.emit bs).dst.read y =
      if s.cursorOffset ≤ y ∧ y < s.cursorOffset + bs.length then bs[y - s.cursorOffset]? else s.dst.read y := by
  simp [Memory.read_writeBytes]

/-! Status. -/

@[simp] theorem accepted_busy (st : Status) : st.accepted.busy = st.busy := rfl
@[simp] theorem raised_underrun (st : Status) : st.raised.underrun = st.underrun := rfl

end Sys2Proof.Machine
end

