-- ==== Sys2Proof/Laws/PerInstr.lean ====
section
/-! SUPPORT. Statements made of every instruction, one lemma for each constructor. -/

namespace Sys2Proof.Laws

/-- 30_encoding.md R87: an instruction is written in exactly the bytes its size says, whatever the tags. -/
def EncodedLength.Statement (i : Instr) : Prop := ∀ t : Tags, (chunkBytes t i).length = i.size

theorem EncodedLength.index (slot : Fin 64) : EncodedLength.Statement (.index slot) := fun _ => rfl

theorem EncodedLength.run8 (n : Nat) : EncodedLength.Statement (.run8 n) := fun _ => rfl

theorem EncodedLength.run16 (n : Nat) : EncodedLength.Statement (.run16 n) := fun _ => rfl

theorem EncodedLength.diff8 (dr dg db : Int) : EncodedLength.Statement (.diff8 dr dg db) := fun _ => rfl

theorem EncodedLength.diff16 (dr dg db : Int) : EncodedLength.Statement (.diff16 dr dg db) := fun _ => rfl

theorem EncodedLength.diff24 (dr dg db da : Int) : EncodedLength.Statement (.diff24 dr dg db da) := fun _ => rfl

theorem EncodedLength.color (r g b a : Option Byte) : EncodedLength.Statement (.color r g b a) := by
  intro t
  simp only [chunkBytes, encode, encodeColor, Code.bytes, Instr.size, List.length_cons, List.length_append]
  omega

theorem EncodedLength.encodeCmd : EncodedLength.Statement .encodeCmd := fun _ => rfl

theorem EncodedLength.decodeCmd : EncodedLength.Statement .decodeCmd := fun _ => rfl

end Sys2Proof.Laws
end

