-- ==== Sys2Proof/Laws/Step.lean ====
section
/-! SUPPORT. What a meaning and what a step can do, said once. -/

namespace Sys2Proof.Machine

/-- A chunk always completes: it advances CUR by its size, may write PX, RUN and one cache slot, and nothing else. -/
theorem exec_chunk {i : Instr} (h : i.isChunk = true) (s : State) :
    ∃ p cache r, exec i s =
        .next { s with px := p, cache := cache, run := r, cur := s.cur + BitVec.ofNat 64 i.size } ∧
      (cache = s.cache ∨ cache = cacheUpdate s.cache p) := by
  cases i with
  | index slot => exact ⟨_, _, _, rfl, .inl rfl⟩
  | run8 n => exact ⟨_, _, _, rfl, .inl rfl⟩
  | run16 n => exact ⟨_, _, _, rfl, .inl rfl⟩
  | diff8 dr dg db => exact ⟨_, _, _, rfl, .inr rfl⟩
  | diff16 dr dg db => exact ⟨_, _, _, rfl, .inr rfl⟩
  | diff24 dr dg db da => exact ⟨_, _, _, rfl, .inr rfl⟩
  | color r g b a => exact ⟨_, _, _, rfl, .inr rfl⟩
  | encodeCmd => cases h
  | decodeCmd => cases h

/-- ENCODE: ignored while BUSY, an error, or a pass begun. -/
theorem exec_encode_cases (s : State) :
    (s.status.busy = true ∧ exec .encodeCmd s = .next s) ∨
    (∃ cause, s.status.busy = false ∧ encodeCheck s = .error cause ∧
      exec .encodeCmd s = .next (s.accept.raise (.invalidArgument cause))) ∨
    (∃ c, s.status.busy = false ∧ encodeCheck s = .ok c ∧ exec .encodeCmd s = .next (encodeBegin c s.accept)) := by
  simp only [exec, execEncode]
  cases hb : s.status.busy
  · cases hc : encodeCheck s with
    | error cause => exact .inr (.inl ⟨cause, rfl, rfl, rfl⟩)
    | ok c => exact .inr (.inr ⟨c, rfl, rfl, rfl⟩)
  · exact .inl ⟨rfl, rfl⟩

/-- DECODE: ignored while BUSY, a header byte missing, an error, or a pass begun. -/
theorem exec_decode_cases (s : State) :
    (s.status.busy = true ∧ exec .decodeCmd s = .next s) ∨
    (s.status.busy = false ∧ decodeCheck s = none ∧ exec .decodeCmd s = .fault .srcUnfilled) ∨
    (∃ cause, s.status.busy = false ∧ decodeCheck s = some (.error cause) ∧
      exec .decodeCmd s = .next (s.accept.raise (.formatError cause))) ∨
    (∃ c hd, s.status.busy = false ∧ decodeCheck s = some (.ok (c, hd)) ∧
      exec .decodeCmd s = .next (decodeBegin c hd s.accept)) := by
  simp only [exec, execDecode]
  cases hb : s.status.busy
  · cases hc : decodeCheck s with
    | none => exact .inr (.inl ⟨rfl, rfl, rfl⟩)
    | some r =>
      cases r with
      | error cause => exact .inr (.inr (.inl ⟨cause, rfl, rfl, rfl⟩))
      | ok ch => exact .inr (.inr (.inr ⟨ch.1, ch.2, rfl, rfl, rfl⟩))
  · exact .inl ⟨rfl, rfl⟩

/-- The outcome of a step's work. -/
theorem step_eq (s : State) :
    step s = match nextWork s with
      | .command i t => exec i t
      | .chunk i t => completePixel (exec i t)
      | .result o => o := rfl

/-- With the host silent, the block takes its own step. -/
theorem nextWork_silent {s : State} (h : s.inbox = []) : nextWork s = blockWork s := by
  simp [nextWork, h]

theorem nextWork_cons {s : State} {act : HostAct} {rest : List HostAct} (h : s.inbox = act :: rest) :
    nextWork s = hostWork act { s with inbox := rest } := by
  simp [nextWork, h]

section Silent
variable {s : State} (h : s.inbox = [])
include h

theorem step_rest (hm : s.mode = .idle ∨ s.mode = .done ∨ s.mode = .error) : step s = .next s := by
  rcases hm with hm | hm | hm <;> simp [step_eq, nextWork_silent h, blockWork, hm]

theorem step_enc_pixel (hm : s.mode = .enc) (hp : s.pos < s.n) : step s = encPixel s := by
  simp [step_eq, nextWork_silent h, blockWork, hm, hp]

theorem step_enc_finish (hm : s.mode = .enc) (hp : s.pos = s.n) : step s = .next (encFinish s) := by
  simp [step_eq, nextWork_silent h, blockWork, hm, hp]

theorem step_dec_hold (hm : s.mode = .dec) (hp : s.pos < s.n) (hr : s.run ≠ 0) : step s = .next s.runHold := by
  have hr' : ¬ s.run = 0#14 := hr
  simp [step_eq, nextWork_silent h, blockWork, decPixelWork, hm, hp, hr']

theorem step_dec_chunk (hm : s.mode = .dec) (hp : s.pos < s.n) (hr : s.run = 0) (hc : s.cur < s.cdl) {i : Instr}
    (hf : s.fetchChunk = some i) : step s = completePixel (exec i s) := by
  simp [step_eq, nextWork_silent h, blockWork, decPixelWork, hm, hp, hr, hc, hf]

theorem step_dec_unfilled (hm : s.mode = .dec) (hp : s.pos < s.n) (hr : s.run = 0) (hc : s.cur < s.cdl)
    (hf : s.fetchChunk = none) : step s = .fault .srcUnfilled := by
  simp [step_eq, nextWork_silent h, blockWork, decPixelWork, hm, hp, hr, hc, hf]

theorem step_dec_exhausted (hm : s.mode = .dec) (hp : s.pos < s.n) (hr : s.run = 0) (hc : ¬ s.cur < s.cdl) :
    step s = .next s.exhausted := by
  simp [step_eq, nextWork_silent h, blockWork, decPixelWork, hm, hp, hr, hc]

theorem step_dec_finish (hm : s.mode = .dec) (hp : s.pos = s.n) : step s = .next (decFinish s) := by
  simp [step_eq, nextWork_silent h, blockWork, hm, hp]

end Silent

/-- A write of CMD = 1 is ENCODE, of CMD = 2 is DECODE. -/
theorem step_encode {s : State} {rest : List HostAct} (h : s.inbox = .writeCmd 1 :: rest) :
    step s = exec .encodeCmd { s with inbox := rest } := by
  simp [step_eq, nextWork_cons h, hostWork, commandWork, decodeCommand]

theorem step_decode {s : State} {rest : List HostAct} (h : s.inbox = .writeCmd 2 :: rest) :
    step s = exec .decodeCmd { s with inbox := rest } := by
  simp [step_eq, nextWork_cons h, hostWork, commandWork, decodeCommand]

end Sys2Proof.Machine
end

