-- ==== Sys2Proof/Tests/Slice0.lean ====
section
/-! SUPPORT. Tests with results from 30_encoding.md and 95_test_vectors.md, and a witness for each statement that has
hypotheses. -/

open Sys2Proof Sys2Proof.Machine

namespace Sys2Proof.Tests

/-! Well-formedness: each check accepts its boundary values and refuses the values next to them (R94). -/

theorem test_wf_accepts_the_boundaries :
    (Instr.run8 1).wf = true ∧ (Instr.run8 32).wf = true ∧ (Instr.run16 33).wf = true ∧
    (Instr.run16 8224).wf = true ∧ (Instr.diff8 (-1) 2 0).wf = true ∧ (Instr.diff16 (-15) 8 (-7)).wf = true ∧
    (Instr.diff16 16 (-7) 8).wf = true ∧ (Instr.diff24 (-15) 16 (-15) 16).wf = true := by decide

theorem test_wf_refuses_run8 : (Instr.run8 0).wf = false ∧ (Instr.run8 33).wf = false := by decide

theorem test_wf_refuses_run16 : (Instr.run16 32).wf = false ∧ (Instr.run16 8225).wf = false := by decide

theorem test_wf_refuses_diff8 :
    (Instr.diff8 (-2) 0 0).wf = false ∧ (Instr.diff8 3 0 0).wf = false ∧ (Instr.diff8 0 (-2) 0).wf = false ∧
    (Instr.diff8 0 3 0).wf = false ∧ (Instr.diff8 0 0 (-2)).wf = false ∧ (Instr.diff8 0 0 3).wf = false := by decide

theorem test_wf_refuses_diff16 :
    (Instr.diff16 (-16) 0 0).wf = false ∧ (Instr.diff16 17 0 0).wf = false ∧ (Instr.diff16 0 (-8) 0).wf = false ∧
    (Instr.diff16 0 9 0).wf = false ∧ (Instr.diff16 0 0 (-8)).wf = false ∧ (Instr.diff16 0 0 9).wf = false := by decide

theorem test_wf_refuses_diff24 :
    (Instr.diff24 (-16) 0 0 0).wf = false ∧ (Instr.diff24 17 0 0 0).wf = false ∧
    (Instr.diff24 0 (-16) 0 0).wf = false ∧ (Instr.diff24 0 17 0 0).wf = false ∧
    (Instr.diff24 0 0 (-16) 0).wf = false ∧ (Instr.diff24 0 0 17 0).wf = false ∧
    (Instr.diff24 0 0 0 (-16)).wf = false ∧ (Instr.diff24 0 0 0 17).wf = false := by decide

/-! Decoding: words written out from R80 to R86 and the boundary bytes of 95_test_vectors.md part 6. -/

theorem test_decode_index : decode Tags.default (.stream [0b00101010]) = some (.index 42) := by decide

theorem test_decode_run8 :
    decode Tags.default (.stream [0b01000000]) = some (.run8 1) ∧
    decode Tags.default (.stream [0b01011111]) = some (.run8 32) := by decide

theorem test_decode_run16 :
    decode Tags.default (.stream [0b01100000, 0]) = some (.run16 33) ∧
    decode Tags.default (.stream [0b01111111, 0xFF]) = some (.run16 8224) := by decide

theorem test_decode_diff8 : decode Tags.default (.stream [0b10_00_11_01]) = some (.diff8 (-1) 2 0) := by decide

theorem test_decode_diff16 :
    decode Tags.default (.stream [0b110_00000, 0b1111_0000]) = some (.diff16 (-15) 8 (-7)) := by decide

/-- 95_test_vectors.md P1: EF 82 8E, fields 31, 0, 20, 14. -/
theorem test_decode_diff24 :
    decode Tags.default (.stream [0xEF, 0x82, 0x8E]) = some (.diff24 16 (-15) 5 (-1)) := by decide

theorem test_decode_color :
    decode Tags.default (.stream [0b1111_0101, 0xAA, 0xBB]) = some (.color none (some 0xAA) none (some 0xBB)) ∧
    decode Tags.default (.stream [0b1111_1000, 7]) = some (.color (some 7) none none none) ∧
    decode Tags.default (.stream [0b1111_0010, 7]) = some (.color none none (some 7) none) := by decide

theorem test_decode_commands :
    decode Tags.default (.command 1) = some .encodeCmd ∧ decode Tags.default (.command 2) = some .decodeCmd ∧
    decodeCommand 0 = .error (.unknownCommand 0) ∧ decodeCommand 0x101 = .error (.unknownCommand 0x101) := by decide

theorem test_decode_rejects_by_name :
    decodeChunk Tags.default [] = .error .noOpcodeByte ∧
    decodeChunk Tags.default [0x60] = .error .operandMissing ∧
    decodeChunk Tags.default [0xE0, 0] = .error .operandMissing ∧
    decodeChunk Tags.default [0xF3, 0] = .error .operandMissing := by decide

/-- The words of V-S1, V-S5, V-S17, V-S11 and V-R5. -/
theorem test_encode_words :
    encode Tags.default (.diff8 (-1) (-1) (-1)) = .stream [0x80] ∧
    encode Tags.default (.diff16 (-2) 0 0) = .stream [0xCD, 0x77] ∧
    encode Tags.default (.diff24 1 1 1 1) = .stream [0xE8, 0x42, 0x10] ∧
    encode Tags.default (.color (some 0x54) none none none) = .stream [0xF8, 0x54] ∧
    encode Tags.default (.run16 34) = .stream [0x60, 0x01] := by decide

/-! States to test on. -/

/-- Decode pass, a chunk due, these bytes at the cursor, two pixels to go. -/
def atChunk (px : Pixel) (bs : List Byte) : State :=
  { State.reset with
    mode := .dec, status := Status.started, w := 2, h := 1, n := 2, c := .four, px := px, cdl := 3
    src := Memory.ofBytes 12 bs }

/-- An encode pass of two RGBA pixels, the first of them next. -/
def atPixel (prev px : Pixel) : State :=
  { State.reset with
    mode := .enc, status := Status.started, w := 2, h := 1, n := 2, c := .four, px := prev
    src := Memory.ofBytes 0 (pixelBytes .four px) }

/-- A field of the next state. -/
def after {α : Type} (s : State) (f : State → α) : Option α :=
  match step s with
  | .next t => some (f t)
  | .fault _ => none
  | .refused _ => none

/-- ENCODE of one black RGBA pixel (V-R1), written but not yet taken. -/
def encodeBlack : State :=
  { State.reset with
    argWidth := 1, argHeight := 1, argChannels := 4, argSrcLen := 4, src := Memory.ofBytes 0 [0, 0, 0, 255]
    inbox := [.writeCmd 1] }

/-- The stream of V-R1. -/
def blackStream : List Byte := [0x71, 0x6F, 0x69, 0x66, 0, 1, 0, 1, 0, 0, 0, 5, 0x40, 0, 0, 0, 0]

/-- DECODE of that stream, written but not yet taken. -/
def decodeBlack : State :=
  { State.reset with
    argChannels := 4, argSrcLen := 17, src := Memory.ofBytes 0 blackStream, inbox := [.writeCmd 2] }

/-! One step of each opcode (95_test_vectors.md part 6; the alpha and slot columns too). -/

/-- V-D12, V-D13: the slot's pixel, here out of a slot the test fills. -/
theorem test_step_index :
    after { atChunk ⟨7, 8, 9, 10⟩ [0x05] with cache := cacheUpdate cacheClear ⟨100, 150, 200, 255⟩ }
      (fun t => (t.px, t.cur, t.pos)) = some (⟨100, 150, 200, 255⟩, 1, 1) := by decide

/-- V-D15. -/
theorem test_step_run8 :
    after (atChunk ⟨9, 9, 9, 9⟩ [0x5F]) (fun t => (t.px, t.run, t.cur)) = some (⟨9, 9, 9, 9⟩, 31, 1) := by decide

/-- V-D17. -/
theorem test_step_run16 :
    after (atChunk ⟨9, 9, 9, 9⟩ [0x61, 0x0B]) (fun t => (t.px, t.run, t.cur)) = some (⟨9, 9, 9, 9⟩, 299, 2) := by decide

/-- V-D1: wraparound below 0, slot 0 written. -/
theorem test_step_diff8 :
    after (atChunk ⟨0, 0, 0, 255⟩ [0x80]) (fun t => (t.px, cacheLookup t.cache 0, t.cur)) =
      some (⟨255, 255, 255, 255⟩, ⟨255, 255, 255, 255⟩, 1) := by decide

/-- V-D3. -/
theorem test_step_diff16 :
    after (atChunk ⟨5, 3, 2, 9⟩ [0xC0, 0x00]) (fun t => (t.px, cacheLookup t.cache 56, t.cur)) =
      some (⟨246, 252, 251, 9⟩, ⟨246, 252, 251, 9⟩, 2) := by decide

/-- V-D7: alpha wraps from 255 to 0. -/
theorem test_step_diff24 :
    after (atChunk ⟨0, 0, 0, 255⟩ [0xE7, 0xBD, 0xF0]) (fun t => (t.px, t.cur)) = some (⟨0, 0, 0, 0⟩, 3) := by decide

/-- V-D10. -/
theorem test_step_color :
    after (atChunk ⟨1, 2, 3, 4⟩ [0xF5, 0xAA, 0xBB]) (fun t => (t.px, cacheLookup t.cache 19, t.cur)) =
      some (⟨1, 170, 3, 187⟩, ⟨1, 170, 3, 187⟩, 3) := by decide

/-- V-D9: the cache is written although nothing changed. -/
theorem test_step_color_without_flags :
    after (atChunk ⟨7, 8, 9, 10⟩ [0xF0]) (fun t => (t.px, cacheLookup t.cache 12, t.cur)) =
      some (⟨7, 8, 9, 10⟩, ⟨7, 8, 9, 10⟩, 1) := by decide

/-- 42_chunk_encoder.md R141: the START step of V-R1's encode. -/
theorem test_step_encode :
    after encodeBlack (fun t => (t.mode, t.n, t.dst.readBytes 4 8)) =
      some (.enc, 1, some [0, 1, 0, 1, 0, 0, 0, 0]) := by decide

/-- V-X21: 65536 is no legal width. -/
theorem test_step_encode_bad_width :
    after { encodeBlack with argWidth := 65536 } (fun t => (t.mode, t.errClass, t.errCause)) =
      some (.error, 1, 1) := by decide

/-- V-T1: a body of four bytes is padding alone. -/
theorem test_step_decode :
    after { decodeBlack with argSrcLen := 16, src := Memory.ofBytes 0 (blackStream.set 11 4) }
      (fun t => (t.mode, t.n, t.cdl)) = some (.dec, 1, 0) := by decide

/-- V-X3: `qoig`. -/
theorem test_step_decode_bad_magic :
    after { decodeBlack with src := Memory.ofBytes 0 (blackStream.set 3 0x67) }
      (fun t => (t.mode, t.errClass, t.errCause)) = some (.error, 2, 3) := by decide

/-! The encoder PIXEL step (V-S5, V-S12, V-S20, V-S40): the bytes at the cursor. -/

theorem test_encoder_diff16 :
    after (atPixel ⟨100, 100, 100, 200⟩ ⟨98, 100, 100, 200⟩) (fun t => t.dst) =
      some [(12, 0xCD), (13, 0x77)] := by decide

theorem test_encoder_color :
    after (atPixel ⟨100, 100, 100, 200⟩ ⟨117, 100, 100, 200⟩) (fun t => t.dst) =
      some [(12, 0xF8), (13, 0x75)] := by decide

/-- V-S20: priority, not size. -/
theorem test_encoder_prefers_diff24 :
    after (atPixel ⟨100, 100, 100, 200⟩ ⟨100, 100, 100, 205⟩) (fun t => t.dst) =
      some [(12, 0xE7), (13, 0xBD), (14, 0xF4)] := by decide

/-- V-S40, with the run of one pending: flush before select, and COLOR where DIFF_8 would wrap. -/
theorem test_encoder_flushes_first :
    after { atPixel ⟨0, 0, 0, 255⟩ ⟨255, 255, 255, 255⟩ with run := 1, pos := 0, cache := cacheUpdate cacheClear ⟨1, 1, 1, 1⟩ }
      (fun t => (t.run, t.dst)) = some (0, [(12, 0x40), (13, 0xFE), (14, 0xFF), (15, 0xFF), (16, 0xFF)]) := by decide

/-! The hash (V-C2, V-C8, V-C12). -/

theorem test_hash :
    Machine.hash ⟨0, 0, 0, 255⟩ = 63 ∧ Machine.hash ⟨100, 150, 200, 255⟩ = 5 ∧
    Machine.hash ⟨0x12, 0x34, 0x56, 0x78⟩ = 8 := by decide

/-! Reset and the placing of a word. -/

theorem test_reset_memory_wf : State.reset.src.wf = true ∧ State.reset.dst.wf = true := by decide

/-- The first step after reset runs the placed chunk; the first step after reset takes the placed command. -/
theorem test_withFetchWord :
    after (State.reset.withFetchWord 16 0x0B61) (fun t => t.run) = some 299 ∧
    after (State.reset.withFetchWord 32 1) (fun t => (t.mode, t.errCause)) = some (.error, 1) := by decide

/-! Witnesses: states and operands that meet the hypotheses of each statement, at the edges of its clauses. -/

theorem witness_tags : Tags.default.valid := by
  constructor <;>
  · simp only [Tags.rows, List.pairwise_cons, List.Pairwise.nil, List.forall_mem_cons, List.not_mem_nil, and_true,
      false_implies, implies_true]
    decide

theorem witness_decodeInvertsEncode :
    Tags.default.valid ∧ (Instr.diff24 (-15) 16 0 1).wf = true ∧ (Instr.diff24 (-15) 16 0 1).isChunk = true :=
  ⟨witness_tags, by decide, by decide⟩

theorem witness_encodeInvertsDecode :
    Tags.default.valid ∧ decodeChunk Tags.default [0x7F, 0xFF, 9] = .ok (.run16 8224, [9]) :=
  ⟨witness_tags, by decide⟩

theorem witness_firstByteFixesChunkLength :
    decodeChunk Tags.default [0x3F, 9] = .ok (.index 63, [9]) ∧ (0x3F : Byte) &&& 0xC0 = Tags.default.index ∧
    decodeChunk Tags.default [0xBF] = .ok (.diff8 2 2 2, []) ∧ (0xBF : Byte) &&& 0xC0 = Tags.default.diff8 ∧
    decodeChunk Tags.default [0x5F] = .ok (.run8 32, []) ∧ (0x5F : Byte) &&& 0xE0 = 0x40 ∧
    decodeChunk Tags.default [0x60, 0] = .ok (.run16 33, []) ∧ (0x60 : Byte) &&& 0xE0 = Tags.default.run16 ∧
    decodeChunk Tags.default [0xDF, 0xFF] = .ok (.diff16 16 8 8, []) ∧ (0xDF : Byte) &&& 0xE0 = Tags.default.diff16 ∧
    decodeChunk Tags.default [0xEF, 0xFF, 0xFF] = .ok (.diff24 16 16 16 16, []) ∧
    (0xEF : Byte) &&& 0xF0 = Tags.default.diff24 ∧
    decodeChunk Tags.default [0xF0] = .ok (.color none none none none, []) ∧
    (0xF0 : Byte) &&& 0xF0 = Tags.default.color := by decide

theorem witness_noOpcodeByteIsIllegal : 4 ≤ ([0, 0, 0, 0] : List Byte).length := by decide

theorem witness_runBounds : (1 ≤ 1 ∧ 1 ≤ 32) ∧ (1 ≤ 32 ∧ 32 ≤ 32) ∧ (33 ≤ 33 ∧ 33 ≤ 8224) ∧ (33 ≤ 8224 ∧ 8224 ≤ 8224) := by
  decide

/-- Three chunks that change PX, RUN and a cache slot. -/
theorem witness_chunksChangeNothingElse :
    (Instr.index 0).isChunk = true ∧ (Instr.run8 2).isChunk = true ∧ (Instr.diff8 1 0 0).isChunk = true ∧
    (∃ t, exec (.index 0) (atChunk ⟨7, 8, 9, 10⟩ []) = .next t ∧ t.px ≠ (atChunk ⟨7, 8, 9, 10⟩ []).px) ∧
    (∃ t, exec (.run8 2) (atChunk ⟨7, 8, 9, 10⟩ []) = .next t ∧ t.run ≠ (atChunk ⟨7, 8, 9, 10⟩ []).run) ∧
    (∃ t, exec (.diff8 1 0 0) (atChunk ⟨7, 8, 9, 10⟩ []) = .next t ∧
      t.cache[hash t.px] ≠ (atChunk ⟨7, 8, 9, 10⟩ []).cache[hash t.px]) := by
  refine ⟨rfl, rfl, rfl, ⟨_, rfl, by decide⟩, ⟨_, rfl, by decide⟩, ⟨_, rfl, by decide⟩⟩

theorem witness_atChunk_index :
    AtChunk (atChunk ⟨7, 8, 9, 10⟩ [0x3F]) [0x3F] ∧ (0x3F : Byte) &&& 0xC0 = Tags.default.index ∧
    (63 : Fin 64).val = ((0x3F : Byte) &&& 0x3F).toNat :=
  ⟨⟨rfl, rfl, by decide, rfl, by decide, by decide⟩, by decide, by decide⟩

theorem witness_atChunk_run8 :
    AtChunk (atChunk ⟨7, 8, 9, 10⟩ [0x40]) [0x40] ∧ (0x40 : Byte) &&& 0xE0 = 0x40 :=
  ⟨⟨rfl, rfl, by decide, rfl, by decide, by decide⟩, by decide⟩

theorem witness_atChunk_run16 :
    AtChunk (atChunk ⟨7, 8, 9, 10⟩ [0x7F, 0xFF]) [0x7F, 0xFF] ∧ (0x7F : Byte) &&& 0xE0 = Tags.default.run16 :=
  ⟨⟨rfl, rfl, by decide, rfl, by decide, by decide⟩, by decide⟩

theorem witness_atChunk_diff8 :
    AtChunk (atChunk ⟨0, 0, 0, 255⟩ [0x80]) [0x80] ∧ (0x80 : Byte) &&& 0xC0 = Tags.default.diff8 ∧
    (⟨255, 255, 255, 255⟩ : Pixel) =
      ⟨0 + (((0x80 : Byte) >>> 4) &&& 3) - 1, 0 + (((0x80 : Byte) >>> 2) &&& 3) - 1, 0 + ((0x80 : Byte) &&& 3) - 1, 255⟩ :=
  ⟨⟨rfl, rfl, by decide, rfl, by decide, by decide⟩, by decide, by decide⟩

theorem witness_atChunk_diff16 :
    AtChunk (atChunk ⟨5, 3, 2, 9⟩ [0xC0, 0]) [0xC0, 0] ∧ (0xC0 : Byte) &&& 0xE0 = Tags.default.diff16 :=
  ⟨⟨rfl, rfl, by decide, rfl, by decide, by decide⟩, by decide⟩

theorem witness_atChunk_diff24 :
    AtChunk (atChunk ⟨0, 0, 0, 255⟩ [0xE7, 0xBD, 0xF0]) [0xE7, 0xBD, 0xF0] ∧
    (0xE7 : Byte) &&& 0xF0 = Tags.default.diff24 :=
  ⟨⟨rfl, rfl, by decide, rfl, by decide, by decide⟩, by decide⟩

theorem witness_atChunk_color :
    AtChunk (atChunk ⟨1, 2, 3, 4⟩ [0xF5, 0xAA, 0xBB])
      (0xF5 :: ((none : Option Byte).toList ++ (some (0xAA : Byte)).toList ++ (none : Option Byte).toList ++
        (some (0xBB : Byte)).toList)) ∧
    (0xF5 : Byte) &&& 0xF0 = Tags.default.color ∧ (0xF5 : Byte).getLsbD 3 = false ∧ (0xF5 : Byte).getLsbD 2 = true ∧
    (0xF5 : Byte).getLsbD 1 = false ∧ (0xF5 : Byte).getLsbD 0 = true :=
  ⟨⟨rfl, rfl, by decide, rfl, by decide, by decide⟩, by decide, by decide, by decide, by decide, by decide⟩

theorem witness_stepRunsTheDecodedChunk :
    AtChunk (atChunk ⟨1, 2, 3, 4⟩ [0x42]) [0x42] ∧ decode Tags.default (.stream [0x42]) = some (.run8 3) :=
  ⟨⟨rfl, rfl, by decide, rfl, by decide, by decide⟩, by decide⟩

theorem witness_stepRunsTheWrittenCommand :
    encodeBlack.inbox = [.writeCmd 1] ∧ decode Tags.default (.command 1) = some .encodeCmd := by decide

/-- A run pending; the chunk region exhausted, in both settings; FINISH due. -/
def runPending : State := { atChunk ⟨1, 2, 3, 4⟩ [] with run := 1 }
def exhaustedNow : State := { atChunk ⟨1, 2, 3, 4⟩ [] with cur := 3 }
def exhaustedStrict : State := { exhaustedNow with cfg := { Config.default with strictTruncation := true } }
def decodeDue : State := { atChunk ⟨1, 2, 3, 4⟩ [] with pos := 2, run := 31 }

theorem witness_runHold :
    runPending.inbox = [] ∧ runPending.mode = .dec ∧ runPending.pos < runPending.n ∧ runPending.run ≠ 0 := by decide

theorem witness_exhausted :
    exhaustedNow.inbox = [] ∧ exhaustedNow.mode = .dec ∧ exhaustedNow.pos < exhaustedNow.n ∧ exhaustedNow.run = 0 ∧
    exhaustedNow.cdl ≤ exhaustedNow.cur ∧ exhaustedNow.cfg.strictTruncation = false := by decide

theorem witness_strictTruncation :
    exhaustedStrict.inbox = [] ∧ exhaustedStrict.mode = .dec ∧ exhaustedStrict.pos < exhaustedStrict.n ∧
    exhaustedStrict.run = 0 ∧ exhaustedStrict.cdl ≤ exhaustedStrict.cur ∧
    exhaustedStrict.cfg.strictTruncation = true := by decide

theorem witness_decoderFinish :
    decodeDue.inbox = [] ∧ decodeDue.mode = .dec ∧ decodeDue.pos = decodeDue.n ∧ decodeDue.run ≠ 0 := by decide

/-- Four channels, and the offsets just below and just above the pixel at POS = 1. -/
theorem witness_pixelStore :
    ({ atChunk ⟨1, 2, 3, 4⟩ [] with pos := 1 } : State).c = .four ∧
    3 < ({ atChunk ⟨1, 2, 3, 4⟩ [] with pos := 1 } : State).pos.toNat * Channels.four.count ∧
    ({ atChunk ⟨1, 2, 3, 4⟩ [] with pos := 1 } : State).pos.toNat * Channels.four.count + Channels.four.count ≤ 8 := by
  decide

/-- The longest chunk, at the last byte of the chunk region. -/
theorem witness_fetchStaysInTheStream :
    ({ atChunk ⟨0, 0, 0, 0⟩ [0, 0, 0xFF, 1, 2, 3, 4] with cur := 2 } : State).cur < (3 : BitVec 64) ∧
    ({ atChunk ⟨0, 0, 0, 0⟩ [0, 0, 0xFF, 1, 2, 3, 4] with cur := 2 } : State).fetchBytes =
      some [0xFF, 1, 2, 3, 4] := by decide

theorem witness_encodeArgs : encodeBlack.status.busy = false ∧ EncodeArgsLegal encodeBlack :=
  ⟨rfl, ⟨by decide, by decide, by decide, by decide⟩⟩

/-- V-X20, V-X21, V-X22, V-X23, V-X24, V-X25: an argument at the edge of each clause, the earlier checks passed. -/
theorem witness_encodeRejects :
    ({ encodeBlack with argWidth := 0 } : State).argWidth.toNat < 1 ∧
    65535 < ({ encodeBlack with argWidth := 65536 } : State).argWidth.toNat ∧
    (1 ≤ encodeBlack.argWidth.toNat ∧ encodeBlack.argWidth.toNat ≤ 65535) ∧
    ({ encodeBlack with argHeight := 0 } : State).argHeight.toNat < 1 ∧
    65535 < ({ encodeBlack with argHeight := 65536 } : State).argHeight.toNat ∧
    (1 ≤ encodeBlack.argHeight.toNat ∧ encodeBlack.argHeight.toNat ≤ 65535) ∧
    (({ encodeBlack with argChannels := 2 } : State).argChannels ≠ 3 ∧
      ({ encodeBlack with argChannels := 2 } : State).argChannels ≠ 4) ∧
    encodeBlack.argChannels = 4 ∧
    ({ encodeBlack with argSrcLen := 3 } : State).argSrcLen.toNat <
      encodeBlack.argWidth.toNat * encodeBlack.argHeight.toNat * encodeBlack.argChannels.toNat := by decide

theorem witness_decodeArgs : decodeBlack.status.busy = false ∧ DecodeArgsLegal decodeBlack ⟨1, 1, 5⟩ :=
  ⟨rfl, ⟨by decide, by decide, by decide, by decide, by decide⟩⟩

/-- V-X10, V-X1, V-X3, V-X5, V-X6, V-X7: a state for each clause, the earlier checks passed. -/
theorem witness_decodeRejects :
    (({ decodeBlack with argChannels := 5 } : State).argChannels ≠ 3 ∧
      ({ decodeBlack with argChannels := 5 } : State).argChannels ≠ 4) ∧
    decodeBlack.argChannels = 4 ∧ ({ decodeBlack with argSrcLen := 11 } : State).argSrcLen.toNat < 12 ∧
    12 ≤ ({ decodeBlack with argSrcLen := 12 } : State).argSrcLen.toNat ∧
    (Memory.ofBytes 0 (blackStream.set 3 0x67)).readBytes 0 4 = some [0x71, 0x6F, 0x69, 0x67] ∧
    ([0x71, 0x6F, 0x69, 0x67] : List Byte) ≠ [0x71, 0x6F, 0x69, 0x66] ∧
    (Memory.ofBytes 0 (blackStream.set 5 0)).readBytes 0 12 = some (writeHeader ⟨0, 1, 5⟩) ∧
    (Memory.ofBytes 0 (blackStream.set 7 0)).readBytes 0 12 = some (writeHeader ⟨1, 0, 5⟩) ∧
    decodeBlack.src.readBytes 0 12 = some (writeHeader ⟨1, 1, 5⟩) ∧
    (5 : BitVec 32).toNat + 12 ≠ ({ decodeBlack with argSrcLen := 16 } : State).argSrcLen.toNat := by decide

theorem witness_commandWhileBusy :
    ({ atPixel ⟨0, 0, 0, 255⟩ ⟨1, 1, 1, 1⟩ with inbox := [.writeCmd 7] } : State).inbox = [.writeCmd 7] ∧
    (atPixel ⟨0, 0, 0, 255⟩ ⟨1, 1, 1, 1⟩).status.busy = true := by decide

theorem witness_unknownCommand :
    ({ State.reset with inbox := [.writeCmd 3] } : State).inbox = [.writeCmd 3] ∧ State.reset.status.busy = false ∧
    (3 : BitVec 32) ≠ 1 ∧ (3 : BitVec 32) ≠ 2 := by decide

theorem inv_atPixel (prev px : Pixel) : Inv (atPixel prev px) where
  buffers := ⟨Memory.ofBytes_wf _ _, rfl⟩
  status := ⟨by simp [atPixel, Status.started], by simp [atPixel, Status.started],
    by simp [atPixel, Status.started], by simp [atPixel, Status.started]⟩
  pass _ := ⟨Nat.le_add_left _ _, Nat.le_refl _, rfl, Nat.zero_le _⟩
  enc _ := ⟨Nat.zero_le _, fun _ => rfl, Nat.le_refl _, fun h => nomatch h⟩
  dec h := nomatch h
  errors := ⟨.inl ⟨rfl, rfl⟩, fun h => nomatch h⟩

theorem inv_atChunk (px : Pixel) (bs : List Byte) : Inv (atChunk px bs) where
  buffers := ⟨Memory.ofBytes_wf _ _, rfl⟩
  status := ⟨by simp [atChunk, Status.started], by simp [atChunk, Status.started],
    by simp [atChunk, Status.started], by simp [atChunk, Status.started]⟩
  pass _ := ⟨Nat.le_add_left _ _, Nat.le_refl _, rfl, Nat.zero_le _⟩
  enc h := nomatch h
  dec _ := ⟨Nat.zero_le _, Nat.zero_le _, by simp [atChunk], fun _ => rfl⟩
  errors := ⟨.inl ⟨rfl, rfl⟩, fun h => nomatch h⟩

/-- A pixel that differs, and a pixel that repeats the previous one. -/
theorem witness_encoderPixelStep :
    Inv (atPixel ⟨0, 0, 0, 255⟩ ⟨1, 1, 1, 255⟩) ∧
    (atPixel ⟨0, 0, 0, 255⟩ ⟨1, 1, 1, 255⟩).inbox = [] ∧ (atPixel ⟨0, 0, 0, 255⟩ ⟨1, 1, 1, 255⟩).mode = .enc ∧
    (atPixel ⟨0, 0, 0, 255⟩ ⟨1, 1, 1, 255⟩).pos < (atPixel ⟨0, 0, 0, 255⟩ ⟨1, 1, 1, 255⟩).n ∧
    (atPixel ⟨0, 0, 0, 255⟩ ⟨1, 1, 1, 255⟩).src.readBytes 0 4 = some (pixelBytes .four ⟨1, 1, 1, 255⟩) ∧
    Inv (atPixel ⟨0, 0, 0, 255⟩ ⟨0, 0, 0, 255⟩) ∧
    (atPixel ⟨0, 0, 0, 255⟩ ⟨0, 0, 0, 255⟩).src.readBytes 0 4 = some (pixelBytes .four ⟨0, 0, 0, 255⟩) :=
  ⟨inv_atPixel _ _, rfl, rfl, by decide, by decide, inv_atPixel _ _, by decide⟩

theorem witness_selection :
    (⟨98, 100, 100, 200⟩ : Pixel) ≠ ⟨100, 100, 100, 200⟩ ∧
    (-2 : Int) = ((98 : Byte).toNat : Int) - (100 : Byte).toNat ∧
    (0 : Int) = ((200 : Byte).toNat : Int) - (200 : Byte).toNat ∧ 1 ≤ 8224 ∧ 8224 ≤ 8224 := by decide

/-- An encode pass whose one chunk byte is out: FINISH is due, and the invariant holds. -/
def encodeDue : State :=
  { atPixel ⟨0, 0, 0, 255⟩ ⟨0, 0, 0, 255⟩ with pos := 2, cur := 1, dst := Memory.ofBytes 12 [0x41] }

theorem inv_encodeDue : Inv encodeDue where
  buffers := ⟨by decide, by decide⟩
  status := ⟨by decide, by decide, by decide, by decide⟩
  pass _ := ⟨by decide, by decide, by decide, by decide⟩
  enc _ := ⟨by decide, by decide, by decide, by decide⟩
  dec h := nomatch h
  errors := ⟨.inl ⟨rfl, rfl⟩, fun h => nomatch h⟩

theorem witness_encoderFinish :
    encodeDue.inbox = [] ∧ encodeDue.mode = .enc ∧ encodeDue.pos = encodeDue.n ∧ encodeDue.cur.toNat + 4 ≤ 4294967295 ∧
    4294967295 < (4294967292 : BitVec 64).toNat + 4 ∧ (4294967291 : BitVec 64).toNat + 4 ≤ 4294967295 := by decide

theorem witness_encodedSize :
    Inv encodeDue ∧ encodeDue.inbox = [] ∧ encodeDue.mode = .enc ∧ encodeDue.pos = encodeDue.n ∧
    ∃ t, step encodeDue = .next t ∧ t.mode = .done :=
  ⟨inv_encodeDue, rfl, rfl, rfl, _, rfl, rfl⟩

/-- The body-length clause: the invariant holds with the longest body of an image that can be too long. -/
def encodeTooLong : State :=
  { encodeDue with w := 65535, h := 65535, n := 4294836225, pos := 4294836225, cur := 4294967292 }

theorem witness_encodedSize_tooLong : Inv encodeTooLong ∧ 4294967295 < encodeTooLong.cur.toNat + 4 :=
  ⟨{ buffers := ⟨by decide, by decide⟩
     status := ⟨by decide, by decide, by decide, by decide⟩
     pass := fun _ => ⟨by decide, by decide, by decide, by decide⟩
     enc := fun _ => ⟨by decide, by decide, by decide, by decide⟩
     dec := fun h => nomatch h
     errors := ⟨.inl ⟨rfl, rfl⟩, fun h => nomatch h⟩ }, by decide⟩

theorem witness_chunkReconstructs :
    (⟨1, 1, 1, 255⟩ : Pixel) ≠ (atPixel ⟨0, 0, 0, 255⟩ ⟨1, 1, 1, 255⟩).px ∧
    (atChunk ⟨0, 0, 0, 255⟩ []).px = (atPixel ⟨0, 0, 0, 255⟩ ⟨1, 1, 1, 255⟩).px ∧
    (atChunk ⟨0, 0, 0, 255⟩ []).cache = (atPixel ⟨0, 0, 0, 255⟩ ⟨1, 1, 1, 255⟩).cache := by decide

theorem witness_readHeader :
    (1 : BitVec 16) ≠ 0 ∧ decodeBlack.src.readBytes 0 12 = some (writeHeader ⟨1, 1, 5⟩) ∧
    readHeader decodeBlack.src 17 = some (.ok ⟨1, 1, 5⟩) := by decide

/-- A state of the invariant in each mode that a step leaves, and a step from it. -/
theorem witness_invariant_step :
    (∃ t, Inv encodeDue ∧ step encodeDue = .next t) ∧
    (∃ t, Inv (atChunk ⟨0, 0, 0, 255⟩ [0x41]) ∧ step (atChunk ⟨0, 0, 0, 255⟩ [0x41]) = .next t) :=
  ⟨⟨_, inv_encodeDue, rfl⟩, ⟨_, inv_atChunk _ _, rfl⟩⟩

theorem witness_modes :
    State.reset.mode = .idle ∧ encodeDue.mode = .enc ∧ (atChunk ⟨0, 0, 0, 255⟩ []).mode = .dec := by decide

/-- The premise of each clause, at a START step, a PIXEL step, a FINISH step the host waits for, and another host act. -/
theorem witness_blockNeverWrites :
    (∃ t, step encodeBlack = .next t) ∧ (∃ t, step (atChunk ⟨0, 0, 0, 255⟩ [0x41]) = .next t) ∧
    (∃ t, step { encodeDue with inbox := [.awaitNotBusy] } = .next t) ∧
    (∃ t, step { State.reset with inbox := [.writeArgHeight 2] } = .next t) ∧
    (∀ bs rest, encodeBlack.inbox ≠ .fillSrc bs :: rest) ∧ (∀ v rest, encodeBlack.inbox ≠ .writeArgWidth v :: rest) ∧
    (∀ v rest, encodeBlack.inbox ≠ .writeArgHeight v :: rest) ∧
    (∀ v rest, encodeBlack.inbox ≠ .writeArgChannels v :: rest) ∧
    (∀ v rest, encodeBlack.inbox ≠ .writeArgSrcLen v :: rest) ∧
    (∀ v rest, ({ State.reset with inbox := [.writeArgHeight 2] } : State).inbox ≠ .writeArgWidth v :: rest) := by
  refine ⟨⟨_, rfl⟩, ⟨_, rfl⟩, ⟨_, rfl⟩, ⟨_, rfl⟩, ?_, ?_, ?_, ?_, ?_, ?_⟩ <;> intro _ _ h <;> cases h

theorem witness_argumentWrites :
    encodeDue.inbox = [] ∧ encodeDue.mode = .enc ∧ ∃ t, step encodeDue = .next t :=
  ⟨rfl, rfl, _, rfl⟩

theorem witness_hostWrites :
    ({ State.reset with inbox := [.writeArgWidth 1, .writeArgHeight 2, .writeArgChannels 3, .writeArgSrcLen 4] } : State).inbox =
      .writeArgWidth 1 :: [.writeArgHeight 2, .writeArgChannels 3, .writeArgSrcLen 4] ∧
    ({ State.reset with inbox := [.writeArgHeight 2] } : State).inbox = [.writeArgHeight 2] ∧
    ({ State.reset with inbox := [.writeArgChannels 3] } : State).inbox = [.writeArgChannels 3] ∧
    ({ State.reset with inbox := [.writeArgSrcLen 4] } : State).inbox = [.writeArgSrcLen 4] := by decide

theorem witness_hostActs :
    ({ encodeDue with inbox := [.letRun] } : State).inbox = [.letRun] ∧ (∃ t, step { encodeDue with inbox := [] } = .next t) ∧
    ({ encodeDue with inbox := [.awaitNotBusy] } : State).inbox = [.awaitNotBusy] ∧ encodeDue.status.busy = true ∧
    ({ State.reset with inbox := [.awaitNotBusy] } : State).inbox = [.awaitNotBusy] ∧
    State.reset.status.busy = false ∧
    ({ State.reset with inbox := [.fillSrc [1, 2]] } : State).inbox = [.fillSrc [1, 2]] ∧
    ({ State.reset with inbox := [.provideDst [1]] } : State).inbox = [.provideDst [1]] ∧
    ({ encodeDue with inbox := [.fillSrc []] } : State).inbox = [.fillSrc []] ∧
    ({ encodeDue with inbox := [.provideDst []] } : State).inbox = [.provideDst []] :=
  ⟨rfl, ⟨_, rfl⟩, rfl, rfl, rfl, rfl, rfl, rfl, rfl, rfl⟩

theorem srcFilled_of_all {s : State} {n : Nat} (h : ∀ k : Fin n, (s.src.read k.val).isSome = true) : SrcFilled s n :=
  fun a ha => h ⟨a, ha⟩

theorem witness_decodeTerminates :
    decodeBlack.inbox = [.writeCmd 2] ∧ decodeBlack.status.busy = false ∧ DecodeArgsLegal decodeBlack ⟨1, 1, 5⟩ ∧
    SrcFilled decodeBlack decodeBlack.argSrcLen.toNat :=
  ⟨rfl, rfl, witness_decodeArgs.2, srcFilled_of_all (n := 17) (by decide)⟩

theorem witness_encodeTerminates :
    encodeBlack.inbox = [.writeCmd 1] ∧ encodeBlack.status.busy = false ∧ EncodeArgsLegal encodeBlack ∧
    SrcFilled encodeBlack (encodeBlack.argWidth.toNat * encodeBlack.argHeight.toNat * encodeBlack.argChannels.toNat) :=
  ⟨rfl, rfl, witness_encodeArgs.2, srcFilled_of_all (n := 4) (by decide)⟩

/-- The same command from a state with other working registers and another DST. -/
theorem witness_pureFunctions :
    encodeBlack.inbox = [.writeCmd 1] ∧
    ({ encodeBlack with px := ⟨9, 9, 9, 9⟩, dst := [(0, 9)], mode := .done } : State).inbox = [.writeCmd 1] ∧
    encodeBlack.dst ≠ [(0, 9)] ∧
    ∀ a, encodeBlack.src.read a =
      ({ encodeBlack with px := ⟨9, 9, 9, 9⟩, dst := [(0, 9)], mode := .done } : State).src.read a :=
  ⟨rfl, rfl, by decide, fun _ => rfl⟩

/-- DECODE does not read ARG_WIDTH: a witness in which it differs. -/
theorem witness_pureFunctions_decode :
    decodeBlack.inbox = [.writeCmd 2] ∧ decodeBlack.status.busy = false ∧
    ({ decodeBlack with argWidth := 7, dst := [(0, 9)] } : State).inbox = [.writeCmd 2] ∧
    decodeBlack.argWidth ≠ 7 ∧ (2 : BitVec 32) ≠ 1 := by decide

/-- V-R1 whole: the run of `encodeBlack` ends in DONE with the stream that `decodeBlack` decodes. -/
theorem test_encode_black_stream :
    viewAfter 3 encodeBlack = some (.done 1 1 17 (some blackStream) false) := by decide

theorem test_decode_black_stream :
    viewAfter 3 decodeBlack = some (.done 1 1 4 (some [0, 0, 0, 255]) false) := by decide

theorem witness_roundTrip :
    ∃ t, runSteps (encodeBlack.argWidth.toNat * encodeBlack.argHeight.toNat + 2) encodeBlack = .next t ∧
      t.mode = .done ∧ encodeBlack.cfg.tags.valid ∧ encodeBlack.inbox = [.writeCmd 1] ∧
      encodeBlack.status.busy = false ∧ decodeBlack.cfg.tags = encodeBlack.cfg.tags ∧
      decodeBlack.inbox = [.writeCmd 2] ∧ decodeBlack.status.busy = false ∧
      decodeBlack.argChannels = encodeBlack.argChannels ∧ decodeBlack.argSrcLen = t.resLen ∧
      ∀ a : Fin 17, decodeBlack.src.read a.val = t.dst.read a.val := by
  refine ⟨_, rfl, rfl, witness_tags, rfl, rfl, rfl, rfl, rfl, rfl, ?_, ?_⟩
  · decide
  · decide

end Sys2Proof.Tests
end

section
/-! SUPPORT. The own steps of the block and the steps of the machine, case by case. -/

namespace Sys2Proof.Machine

/-- What a step answers for its work. -/
def Work.outcome : Work → Host.Outcome State Fault Refusal
  | .command i s => exec i s
  | .chunk i s => completePixel (exec i s)
  | .result o => o

theorem step_eq_outcome (s : State) : step s = (nextWork s).outcome := by
  rw [step_eq]
  cases nextWork s <;> rfl

theorem step_silent {s : State} (h : s.inbox = []) : step s = (blockWork s).outcome := by
  rw [step_eq_outcome, nextWork_silent h]

theorem step_host {s : State} {act : HostAct} {rest : List HostAct} (h : s.inbox = act :: rest) :
    step s = (hostWork act { s with inbox := rest }).outcome := by
  rw [step_eq_outcome, nextWork_cons h]

/-! The block. -/

/-- The own steps of the block that answer a next state: rest, PIXEL and FINISH. -/
inductive BlockStep (s : State) : State → Prop where
  | rest (hm : s.mode = .idle ∨ s.mode = .done ∨ s.mode = .error) : BlockStep s s
  | encPixel {px : Pixel} (hm : s.mode = .enc) (hp : s.pos < s.n) (hl : s.loadPixel = some px) :
      BlockStep s (s.encodePixel px)
  | encFinish (hm : s.mode = .enc) (hp : s.pos = s.n) : BlockStep s (encFinish s)
  | decHold (hm : s.mode = .dec) (hp : s.pos < s.n) (hr : s.run ≠ 0) : BlockStep s s.runHold
  | decChunk {i : Instr} {t : State} (hm : s.mode = .dec) (hp : s.pos < s.n) (hr : s.run = 0) (hc : s.cur < s.cdl)
      (hf : s.fetchChunk = some i) (he : exec i s = .next t) : BlockStep s t.storePixel
  | decExhausted (hm : s.mode = .dec) (hp : s.pos < s.n) (hr : s.run = 0) (hc : ¬ s.cur < s.cdl) :
      BlockStep s s.exhausted
  | decFinish (hm : s.mode = .dec) (hp : s.pos = s.n) : BlockStep s (decFinish s)

theorem encPixel_next_iff {s t : State} :
    encPixel s = .next t ↔ ∃ px, s.loadPixel = some px ∧ s.encodePixel px = t := by
  simp only [encPixel]
  cases s.loadPixel <;> simp

theorem completePixel_next_iff {o : Host.Outcome State Fault Refusal} {t : State} :
    completePixel o = .next t ↔ ∃ u, o = .next u ∧ u.storePixel = t := by
  cases o <;> simp [completePixel]

theorem BlockStep.of_decPixelWork {s t : State} (hm : s.mode = .dec) (hp : s.pos < s.n)
    (h : (decPixelWork s).outcome = .next t) : BlockStep s t := by
  by_cases hr : s.run = 0
  · by_cases hc : s.cur < s.cdl
    · cases hf : s.fetchChunk with
      | none => simp [decPixelWork, hr, hc, hf, Work.outcome] at h
      | some i =>
        simp only [decPixelWork, hr, hc, hf, Work.outcome, ne_eq, not_true_eq_false, if_true, if_false] at h
        obtain ⟨u, he, rfl⟩ := completePixel_next_iff.1 h
        exact .decChunk hm hp hr hc hf he
    · simp only [decPixelWork, hr, hc, Work.outcome, ne_eq, not_true_eq_false, if_false,
        Host.Outcome.next.injEq] at h
      exact h ▸ .decExhausted hm hp hr hc
  · simp only [decPixelWork, hr, Work.outcome, ne_eq, not_false_eq_true, if_true, Host.Outcome.next.injEq] at h
    exact h ▸ .decHold hm hp hr

/-- Whatever the block's own step answers is one of `BlockStep`. -/
theorem BlockStep.of_blockWork {s t : State} (h : (blockWork s).outcome = .next t) : BlockStep s t := by
  cases hm : s.mode with
  | idle | done | error =>
    simp only [blockWork, hm, Work.outcome, Host.Outcome.next.injEq] at h
    exact h ▸ .rest (by simp [hm])
  | enc =>
    simp only [blockWork, hm] at h
    split_ifs at h with hp hq
    · obtain ⟨px, hl, rfl⟩ := encPixel_next_iff.1 h
      exact .encPixel hm hp hl
    · cases h
      exact .encFinish hm hq
    · cases h
  | dec =>
    simp only [blockWork, hm] at h
    split_ifs at h with hp hq
    · exact .of_decPixelWork hm hp h
    · cases h
      exact .decFinish hm hq
    · cases h

/-- With the host silent, `BlockStep` is exactly the step. -/
theorem step_silent_iff {s t : State} (h : s.inbox = []) : step s = .next t ↔ BlockStep s t := by
  constructor
  · rw [step_silent h]
    exact BlockStep.of_blockWork
  · rintro (hm | ⟨hm, hp, hl⟩ | ⟨hm, hp⟩ | ⟨hm, hp, hr⟩ | ⟨hm, hp, hr, hc, hf, he⟩ | ⟨hm, hp, hr, hc⟩ | ⟨hm, hp⟩)
    · exact step_rest h hm
    · rw [step_enc_pixel h hm hp]
      exact encPixel_next_iff.2 ⟨_, hl, rfl⟩
    · exact step_enc_finish h hm hp
    · exact step_dec_hold h hm hp hr
    · rw [step_dec_chunk h hm hp hr hc hf, he]
      rfl
    · exact step_dec_exhausted h hm hp hr hc
    · exact step_dec_finish h hm hp

/-! The host. -/

/-- The steps of the machine that answer a next state: the block's own with the rest of the inbox in place, a host act
that leaves the block alone, an error entered outside a pass, and a pass begun. -/
inductive StepCase (s : State) : State → Prop where
  | block {ib : List HostAct} {t : State} (h : BlockStep { s with inbox := ib } t) : StepCase s t
  | host {w h c : BitVec 32} {l : BitVec 64} {src dst : Memory} {ib : List HostAct}
      (hsrc : src = s.src ∨ ∃ bs, src = Memory.ofBytes 0 bs) (hdst : dst = s.dst ∨ ∃ bs, dst = Memory.ofBytes 0 bs) :
      StepCase s
        { s with
          argWidth := w, argHeight := h, argChannels := c, argSrcLen := l, src := src, dst := dst, inbox := ib }
  | raised {st : Status} {ib : List HostAct} (e : CodecError) (hb : s.status.busy = false) :
      StepCase s (State.raise { s with status := st, inbox := ib } e)
  | encodeBegun {c : Channels} {ib : List HostAct} (hb : s.status.busy = false) (hc : encodeCheck s = .ok c) :
      StepCase s (encodeBegin c (State.accept { s with inbox := ib }))
  | decodeBegun {c : Channels} {hd : Header} {ib : List HostAct} (hb : s.status.busy = false)
      (hc : decodeCheck s = some (.ok (c, hd))) : StepCase s (decodeBegin c hd (State.accept { s with inbox := ib }))

/-- An act of the host that changes the inbox alone. -/
theorem StepCase.taken {s : State} {ib : List HostAct} : StepCase s { s with inbox := ib } :=
  .host (.inl rfl) (.inl rfl)

theorem StepCase.of_encode {s t : State} {ib : List HostAct} (h : exec .encodeCmd { s with inbox := ib } = .next t) :
    StepCase s t := by
  obtain ⟨-, e⟩ | ⟨cause, hb, -, e⟩ | ⟨c, hb, hc, e⟩ := exec_encode_cases { s with inbox := ib } <;>
    rw [e] at h <;> cases h
  · exact .taken
  · exact .raised _ hb
  · exact .encodeBegun hb hc

theorem StepCase.of_decode {s t : State} {ib : List HostAct} (h : exec .decodeCmd { s with inbox := ib } = .next t) :
    StepCase s t := by
  obtain ⟨-, e⟩ | ⟨-, -, e⟩ | ⟨cause, hb, -, e⟩ | ⟨c, hd, hb, hc, e⟩ := exec_decode_cases { s with inbox := ib } <;>
    rw [e] at h <;> cases h
  · exact .taken
  · exact .raised _ hb
  · exact .decodeBegun hb hc

theorem decode_command_iff {t : Tags} {v : BitVec 32} {i : Instr} :
    decode t (.command v) = some i ↔ decodeCommand v = .ok i := by
  simp only [decode]
  split <;> rename_i h <;> rw [h] <;> simp

theorem commandWork_of_decode {t : Tags} {v : BitVec 32} {i : Instr} (h : decode t (.command v) = some i) (s : State) :
    commandWork v s = .command i s := by
  simp only [commandWork, decode_command_iff.1 h]

theorem StepCase.of_commandWork {s t : State} {v : BitVec 32} {ib : List HostAct}
    (h : (commandWork v { s with inbox := ib }).outcome = .next t) : StepCase s t := by
  simp only [commandWork, decodeCommand] at h
  by_cases h1 : v = 1
  · simp only [h1, if_true] at h
    exact .of_encode h
  by_cases h2 : v = 2
  · simp only [h2] at h
    exact .of_decode h
  simp only [h1, h2, if_false] at h
  split_ifs at h with hb <;> cases h
  · exact .taken
  · exact .raised (st := s.status) _ (Bool.eq_false_of_not_eq_true hb)

theorem StepCase.of_hostWork {s t : State} {act : HostAct} {ib : List HostAct}
    (h : (hostWork act { s with inbox := ib }).outcome = .next t) : StepCase s t := by
  cases act with
  | writeArgWidth v | writeArgHeight v | writeArgChannels v | writeArgSrcLen v =>
    cases h
    exact .host (.inl rfl) (.inl rfl)
  | fillSrc bs =>
    simp only [hostWork] at h
    split_ifs at h <;> cases h
    exact .host (.inr ⟨bs, rfl⟩) (.inl rfl)
  | provideDst bs =>
    simp only [hostWork] at h
    split_ifs at h <;> cases h
    exact .host (.inl rfl) (.inr ⟨bs, rfl⟩)
  | writeCmd v => exact .of_commandWork h
  | letRun => exact .block (.of_blockWork h)
  | awaitNotBusy =>
    simp only [hostWork] at h
    split_ifs at h
    · exact .block (.of_blockWork h)
    · cases h
      exact .taken

/-- Whatever a step answers is one of `StepCase`. -/
theorem StepCase.of_step {s t : State} (h : step s = .next t) : StepCase s t := by
  cases hi : s.inbox with
  | nil =>
    rw [step_silent hi] at h
    exact .block (ib := s.inbox) (.of_blockWork h)
  | cons act rest =>
    rw [step_host hi] at h
    exact .of_hostWork h

end Sys2Proof.Machine
end

section
/-! SUPPORT. The encoder PIXEL step as two emissions, and the branches of the steps that end a pass. -/

namespace Sys2Proof.Machine

/-! Chunks by their sizes. -/

theorem size_bounds {i : Instr} (h : i.isChunk = true) : 1 ≤ i.size ∧ i.size ≤ 5 := by
  cases i with
  | color r g b a =>
    have := r.isSome.toNat_le
    have := g.isSome.toNat_le
    have := b.isSome.toNat_le
    have := a.isSome.toNat_le
    simp only [Instr.size, toList_length]
    omega
  | index | run8 | run16 | diff8 | diff16 | diff24 => simp [Instr.size]
  | encodeCmd | decodeCmd => cases h

/-- 30_encoding.md R87, for all instructions together. -/
@[simp] theorem chunkBytes_length (t : Tags) (i : Instr) : (chunkBytes t i).length = i.size := by
  cases i with
  | color r g b a => exact Laws.EncodedLength.color r g b a t
  | index | run8 | run16 | diff8 | diff16 | diff24 | encodeCmd | decodeCmd => rfl

/-- 42_chunk_encoder.md R159: a run chunk takes no more bytes than the pixels it covers. -/
theorem runChunk_size {n : Nat} (h : 1 ≤ n) : 1 ≤ (runChunk n).size ∧ (runChunk n).size ≤ n := by
  simp only [runChunk, Config.run8Max]
  split_ifs <;> simp only [Instr.size] <;> omega

theorem selectChunk_isChunk (cache : Vector Pixel 64) (px prev : Pixel) :
    (selectChunk cache px prev).isChunk = true := by
  simp only [selectChunk, diffChunk]
  split_ifs <;> rfl

/-- What the decoder fetches is a chunk with its operands in range. -/
theorem fetchChunk_wf {s : State} {i : Instr} (h : s.fetchChunk = some i) : i.wf = true ∧ i.isChunk = true := by
  simp only [State.fetchChunk] at h
  split at h
  · cases h
  · split at h <;> cases h
    rename_i hd
    obtain ⟨_, _, _, _, _, hi⟩ := decodeChunk_ok hd
    exact ⟨decodeChunk_wf hd, hi⟩

/-! The encoder PIXEL step. -/

@[simp] theorem emit_nil (s : State) : s.emit [] = s := by
  simp [State.emit, Memory.writeBytes]

/-- The count writes RUN alone. -/
theorem countRun_eq (s : State) (px : Pixel) :
    s.countRun px = s.setRun (if px = s.px then s.run + 1 else s.run) := by
  simp only [State.countRun]
  split_ifs <;> rfl

/-- The bytes of the run chunk a flush emits, none where no flush is due. -/
def State.flushBytes (s : State) (px : Pixel) : List Byte :=
  if s.flushDue px then chunkBytes s.cfg.tags (runChunk s.run.toNat) else []

/-- The bytes of the chunk of a pixel that differs, none for one that repeats. -/
def State.selectBytes (s : State) (px : Pixel) : List Byte :=
  if px = s.px then [] else chunkBytes s.cfg.tags (selectChunk s.cache px s.px)

theorem flushRun_run (s : State) (px : Pixel) : (s.flushRun px).run = if s.flushDue px then 0 else s.run := by
  simp only [State.flushRun]
  split_ifs <;> rfl

/-- A flush emits its bytes and writes RUN. -/
theorem flushRun_eq (s : State) (px : Pixel) :
    s.flushRun px = (s.emit (s.flushBytes px)).setRun (s.flushRun px).run := by
  simp only [State.flushRun, State.flushBytes]
  split_ifs
  · rfl
  · rw [emit_nil]
    rfl

/-- A selection emits its bytes and records the pixel in the cache (on a match the slot holds it already). -/
theorem selectAndEmit_eq (s : State) (px : Pixel) :
    s.selectAndEmit px =
      { s.emit (s.selectBytes px) with cache := if px = s.px then s.cache else cacheUpdate s.cache px } := by
  simp only [State.selectAndEmit, State.selectBytes]
  split_ifs with hpx hmatch
  · rw [emit_nil]
  · rw [cacheUpdate_of_match hmatch]
    rfl
  · rfl

/-- 42_chunk_encoder.md R156: the PIXEL step emits the run chunk that is due, then the pixel's own chunk. -/
theorem encodePixel_eq (s : State) (px : Pixel) :
    s.encodePixel px =
      { (s.emit ((s.countRun px).flushBytes px)).emit (s.selectBytes px) with
        px := px
        pos := s.pos + 1
        run := ((s.countRun px).flushRun px).run
        cache := if px = s.px then s.cache else cacheUpdate s.cache px } := by
  rw [State.encodePixel, selectAndEmit_eq, flushRun_eq, countRun_eq]
  rfl

/-! The branches of the steps that can end a pass. -/

theorem encFinish_tooLong {s : State} (h : Config.bodyMax < s.bodyLength) :
    encFinish s = s.raise (.invalidArgument .bodyTooLong) := if_pos h

theorem encFinish_done {s : State} (h : ¬ Config.bodyMax < s.bodyLength) :
    encFinish s =
      { s.closeStream with
        resWidth := s.w
        resHeight := s.h
        resLen := BitVec.ofNat 64 (Config.headerLen + s.bodyLength)
        status := Status.finished false
        mode := .done } := if_neg h

theorem exhausted_strict {s : State} (h : s.cfg.strictTruncation = true) :
    s.exhausted = State.raise { s with status := s.status.markUnderrun } (.formatError .truncated) := if_pos h

theorem exhausted_lenient {s : State} (h : ¬ s.cfg.strictTruncation = true) :
    s.exhausted = State.storePixel { s with status := s.status.markUnderrun } := if_neg h

end Sys2Proof.Machine
end

section
/-! SUPPORT. The invariant at each kind of step. -/

namespace Sys2Proof.Machine

/-! What the checks of the START steps leave known. -/

/-- 42_chunk_encoder.md R141. -/
theorem encodeCheck_ok {s : State} {c : Channels} (h : encodeCheck s = .ok c) :
    (1 ≤ s.argWidth.toNat ∧ s.argWidth.toNat ≤ 65535) ∧ (1 ≤ s.argHeight.toNat ∧ s.argHeight.toNat ≤ 65535) := by
  simp only [encodeCheck] at h
  split_ifs at h with hw hh
  exact ⟨dimensionLegal_iff.1 (Bool.eq_true_of_not_eq_false hw), dimensionLegal_iff.1 (Bool.eq_true_of_not_eq_false hh)⟩

theorem checkFields_ok {hd hd' : Header} {len : Nat} (h : checkFields hd len = .ok hd') :
    hd'.width ≠ 0 ∧ hd'.height ≠ 0 := by
  simp only [checkFields] at h
  split_ifs at h with hz
  cases h
  exact not_or.1 hz

/-- 41_header_codec.md R127: a header that is read has no zero dimension. -/
theorem readHeader_ok {src : Memory} {len : Nat} {hd : Header} (h : readHeader src len = some (.ok hd)) :
    hd.width ≠ 0 ∧ hd.height ≠ 0 := by
  simp only [readHeader] at h
  split_ifs at h
  · cases h
  split at h
  · cases h
  split_ifs at h
  · cases h
  split at h
  · exact checkFields_ok (Option.some.inj h)
  · cases h

/-- 43_chunk_decoder.md R181. -/
theorem decodeCheck_ok {s : State} {c : Channels} {hd : Header} (h : decodeCheck s = some (.ok (c, hd))) :
    hd.width ≠ 0 ∧ hd.height ≠ 0 := by
  simp only [decodeCheck] at h
  split at h
  · cases h
  split at h <;> cases h
  rename_i hr
  exact readHeader_ok hr

theorem one_le_toNat {w : Nat} {v : BitVec w} (h : v ≠ 0) : 1 ≤ v.toNat :=
  Nat.one_le_iff_ne_zero.2 fun e => h (BitVec.eq_of_toNat_eq (by simpa using e))

/-- 60_exceptions.md R241, R242: the classes and the causes. -/
theorem errorCode_bounds (e : CodecError) :
    (e.classCode = 1 ∨ e.classCode = 2) ∧ 1 ≤ e.causeCode ∧ e.causeCode ≤ 6 := by
  cases e with
  | invalidArgument cause => cases cause <;> decide
  | formatError cause => cases cause <;> decide

/-! Outside a pass. -/

/-- 60_exceptions.md R245: error entry makes the invariant, whatever the registers hold. -/
theorem BuffersCanonical.inv_raise {s : State} (h : BuffersCanonical s) {st : Status} {ib : List HostAct} (e : CodecError) :
    Inv (State.raise { s with status := st, inbox := ib } e) where
  buffers := ⟨h.src, h.dst⟩
  status := by constructor <;> simp [Status.raised]
  pass hm := by simp at hm
  enc hm := nomatch hm
  dec hm := nomatch hm
  errors := by
    obtain ⟨hclass, hcause⟩ := errorCode_bounds e
    exact ⟨.inr ⟨hclass, hcause⟩, fun _ => by simp only [raise_errClass]; omega⟩

/-- FINISH of either pass, without an error. -/
theorem Inv.finished {s : State} (h : Inv s) {dst : Memory} (hdst : dst.wf = true) {rw rh : BitVec 16} {rl : BitVec 64}
    {u : Bool} :
    Inv { s with
      dst := dst, resWidth := rw, resHeight := rh, resLen := rl, status := Status.finished u, mode := .done } where
  buffers := ⟨h.buffers.src, hdst⟩
  status := by constructor <;> simp [Status.finished]
  pass hm := by simp at hm
  enc hm := nomatch hm
  dec hm := nomatch hm
  errors := ⟨h.errors.code, fun hm => nomatch hm⟩

/-- The invariant speaks of no argument register and no inbox, and of the buffers' form alone. -/
theorem Inv.host {s : State} (hi : Inv s) {w h c : BitVec 32} {l : BitVec 64} {src dst : Memory} {ib : List HostAct}
    (hsrc : src.wf = true) (hdst : dst.wf = true) :
    Inv { s with
      argWidth := w, argHeight := h, argChannels := c, argSrcLen := l, src := src, dst := dst, inbox := ib } where
  buffers := ⟨hsrc, hdst⟩
  status := ⟨hi.status.busy, hi.status.done, hi.status.err, hi.status.underrun⟩
  pass hm := let p := hi.pass hm; ⟨p.width, p.height, p.count, p.index⟩
  enc hm := let p := hi.enc hm; ⟨p.run, p.last, p.upper, p.lower⟩
  dec hm := let p := hi.dec hm; ⟨p.run, p.cursor, p.region, p.empty⟩
  errors := ⟨hi.errors.code, hi.errors.error⟩

theorem Inv.inbox {s : State} (h : Inv s) {ib : List HostAct} : Inv { s with inbox := ib } :=
  h.host h.buffers.src h.buffers.dst

/-! START. -/

/-- 70_reset_and_hazards.md R271: the pass initialisation makes the invariant, with the dimensions legal and, in a decode
pass, the region of a 32-bit body. -/
theorem Inv.initPass {s : State} (hi : Inv s) {m : Mode} {w h : BitVec 16} {c : Channels} {dst : Memory} {cdl : BitVec 64}
    (hm : m = .enc ∨ m = .dec) (hw : 1 ≤ w.toNat) (hh : 1 ≤ h.toNat) (hdst : dst.wf = true)
    (hcdl : m = .dec → cdl.toNat + 4 ≤ 4294967295) : Inv { s.initPass m w h c with dst := dst, cdl := cdl } where
  buffers := ⟨hi.buffers.src, hdst⟩
  status := by rcases hm with rfl | rfl <;> constructor <;> simp [Status.started]
  pass _ := ⟨hw, hh, pixelCount_toNat w h, Nat.zero_le _⟩
  enc _ := ⟨Nat.zero_le _, fun _ => rfl, Nat.le_refl _, fun hp => nomatch hp⟩
  dec hd := ⟨Nat.zero_le _, Nat.zero_le _, hcdl hd, fun _ => rfl⟩
  errors := ⟨hi.errors.code, fun he => by rcases hm with rfl | rfl <;> cases he⟩

theorem Inv.encodeBegin {s : State} (h : Inv s) {c : Channels} {ib : List HostAct} (hc : encodeCheck s = .ok c) :
    Inv (encodeBegin c (State.accept { s with inbox := ib })) := by
  obtain ⟨⟨hw, hw'⟩, hh, hh'⟩ := encodeCheck_ok hc
  refine Inv.initPass (h.inbox (ib := ib)) (cdl := s.cdl) (.inl rfl) ?_ ?_
    (Memory.writeBytes_wf _ h.buffers.dst 0) (fun hm => nomatch hm)
  · show 1 ≤ (s.argWidth.setWidth 16).toNat
    rw [BitVec.toNat_setWidth]
    omega
  · show 1 ≤ (s.argHeight.setWidth 16).toNat
    rw [BitVec.toNat_setWidth]
    omega

/-- 43_chunk_decoder.md R198: the region and its padding are no longer than the body. -/
theorem chunkDataLength_bound (v : BitVec 32) : (chunkDataLength v).toNat + 4 ≤ 4294967295 := by
  have := v.isLt
  simp only [chunkDataLength, Config.padLen, BitVec.toNat_ofNat]
  omega

theorem Inv.decodeBegin {s : State} (h : Inv s) {c : Channels} {hd : Header} {ib : List HostAct}
    (hc : decodeCheck s = some (.ok (c, hd))) : Inv (decodeBegin c hd (State.accept { s with inbox := ib })) := by
  obtain ⟨hw, hh⟩ := decodeCheck_ok hc
  exact Inv.initPass (h.inbox (ib := ib)) (.inr rfl) (one_le_toNat hw) (one_le_toNat hh) h.buffers.dst
    (fun _ => chunkDataLength_bound _)

/-! The decode pass. -/

theorem toNat_add_one_of_lt {x y : BitVec 32} (h : x < y) : (x + 1).toNat = x.toNat + 1 := by
  bv_omega

/-- In a decode pass PX, the cache and UNDERRUN are free, RUN and CUR within their ranges. -/
theorem Inv.decRegisters {s : State} (h : Inv s) (hm : s.mode = .dec) {p : Pixel} {cache : Vector Pixel 64}
    {run : BitVec 14} {cur : BitVec 64} {u : Bool} (hrun : run.toNat ≤ 8223) (hcur : cur.toNat ≤ s.cdl.toNat + 4)
    (hempty : s.cdl = 0 → cur = 0) :
    Inv { s with px := p, cache := cache, run := run, cur := cur, status := { s.status with underrun := u } } where
  buffers := ⟨h.buffers.src, h.buffers.dst⟩
  status := ⟨h.status.busy, h.status.done, h.status.err, fun _ => .inl hm⟩
  pass hm := let p := h.pass hm; ⟨p.width, p.height, p.count, p.index⟩
  enc hm' := nomatch hm.symm.trans hm'
  dec _ := ⟨hrun, hcur, (h.dec hm).region, hempty⟩
  errors := ⟨h.errors.code, h.errors.error⟩

/-- 43_chunk_decoder.md R194: the store and POS + 1 while POS < N. -/
theorem Inv.storePixel {s : State} (h : Inv s) (hm : s.mode = .dec) (hp : s.pos < s.n) : Inv s.storePixel where
  buffers := ⟨h.buffers.src, Memory.writeBytes_wf _ h.buffers.dst _⟩
  status := ⟨h.status.busy, h.status.done, h.status.err, h.status.underrun⟩
  pass hm :=
    let p := h.pass hm
    ⟨p.width, p.height, p.count, by
      rw [storePixel_pos, storePixel_n, toNat_add_one_of_lt hp]
      exact hp⟩
  enc hm' := nomatch hm.symm.trans hm'
  dec hm := let p := h.dec hm; ⟨p.run, p.cursor, p.region, p.empty⟩
  errors := ⟨h.errors.code, h.errors.error⟩

theorem Inv.runHold {s : State} (h : Inv s) (hm : s.mode = .dec) (hp : s.pos < s.n) (hr : s.run ≠ 0) : Inv s.runHold := by
  obtain ⟨hrun, hcur, -, hempty⟩ := h.dec hm
  have hrun' : (s.run - 1).toNat ≤ 8223 := by
    have := one_le_toNat hr
    bv_omega
  exact Inv.storePixel (h.decRegisters hm (p := s.px) (cache := s.cache) (u := s.status.underrun) hrun' hcur hempty) hm hp

theorem Inv.exhausted {s : State} (h : Inv s) (hm : s.mode = .dec) (hp : s.pos < s.n) : Inv s.exhausted := by
  obtain ⟨hrun, hcur, -, hempty⟩ := h.dec hm
  by_cases hs : s.cfg.strictTruncation = true
  · rw [exhausted_strict hs]
    exact h.buffers.inv_raise _
  · rw [exhausted_lenient hs]
    exact Inv.storePixel (h.decRegisters hm (p := s.px) (cache := s.cache) (u := true) hrun hcur hempty) hm hp

/-- The run a well-formed chunk leaves is one a RUN_8 or RUN_16 can load (10_state.md R23). -/
theorem exec_chunk_run {i : Instr} {s t : State} (hi : i.isChunk = true) (hw : i.wf = true) (h : exec i s = .next t) :
    t.run = s.run ∨ t.run.toNat ≤ 8223 := by
  cases i with
  | run8 n =>
    cases h
    simp only [Instr.wf, Config.run8Max, Bool.and_eq_true, decide_eq_true_eq] at hw
    right
    rw [setRun_run, BitVec.toNat_ofNat]
    omega
  | run16 n =>
    cases h
    simp only [Instr.wf, Config.run8Max, Config.runMax, Bool.and_eq_true, decide_eq_true_eq] at hw
    right
    rw [setRun_run, BitVec.toNat_ofNat]
    omega
  | index | diff8 | diff16 | diff24 | color =>
    cases h
    exact .inl rfl
  | encodeCmd | decodeCmd => cases hi

theorem Inv.chunk {s t : State} (h : Inv s) (hm : s.mode = .dec) (hp : s.pos < s.n) (hc : s.cur < s.cdl) {i : Instr}
    (hf : s.fetchChunk = some i) (he : exec i s = .next t) : Inv t.storePixel := by
  obtain ⟨hw, hi⟩ := fetchChunk_wf hf
  obtain ⟨hrun, -, hregion, -⟩ := h.dec hm
  have hsize := (size_bounds hi).2
  have hr := exec_chunk_run hi hw he
  obtain ⟨p, cache, run, he', -⟩ := exec_chunk hi s
  obtain rfl := Host.Outcome.next.inj (he.symm.trans he')
  refine Inv.storePixel (h.decRegisters hm (u := s.status.underrun) ?_ ?_ ?_) hm hp
  · rcases hr with rfl | hr
    · exact hrun
    · exact hr
  · have : s.cur.toNat < s.cdl.toNat := hc
    rw [BitVec.toNat_add, BitVec.toNat_ofNat]
    omega
  · intro h0
    exact absurd hc (by simp [h0])

/-! The encode pass. -/

theorem flushDue_iff {s : State} {px : Pixel} :
    s.flushDue px = true ↔ s.run ≠ 0 ∧ (s.run.toNat = 8224 ∨ px ≠ s.px ∨ s.pos.toNat + 1 = s.n.toNat) := by
  simp [State.flushDue, Config.runMax, or_assoc]

/-- 42_chunk_encoder.md R144: after the flush RUN is below the maximum, and 0 after the last pixel. -/
theorem flushRun_run_bounds {s : State} (px : Pixel) (hr : s.run.toNat ≤ 8224) :
    (s.flushRun px).run.toNat ≤ 8223 ∧ (s.pos.toNat + 1 = s.n.toNat → (s.flushRun px).run = 0) := by
  rw [flushRun_run]
  split_ifs with hf
  · exact ⟨Nat.zero_le _, fun _ => rfl⟩
  · rw [flushDue_iff] at hf
    by_cases h0 : s.run = 0
    · exact ⟨by simp [h0], fun _ => h0⟩
    · push Not at hf
      obtain ⟨hmax, -, hlast⟩ := hf h0
      exact ⟨by omega, fun e => absurd e hlast⟩

/-- R159: the bytes of the flush and the run left after it are no more than the run before it, and not nothing. -/
theorem flushBytes_length (s : State) (px : Pixel) :
    (s.flushBytes px).length + (s.flushRun px).run.toNat ≤ s.run.toNat ∧
    (1 ≤ s.run.toNat → 1 ≤ (s.flushBytes px).length + (s.flushRun px).run.toNat) := by
  rw [flushRun_run, State.flushBytes]
  split_ifs with hf
  · obtain ⟨hlow, hhigh⟩ := runChunk_size (one_le_toNat (flushDue_iff.1 hf).1)
    rw [chunkBytes_length]
    exact ⟨hhigh, fun _ => hlow⟩
  · simp

/-- R159: a pixel that differs emits one to five bytes of its own, one that repeats none. -/
theorem selectBytes_length (s : State) (px : Pixel) :
    (px = s.px → (s.selectBytes px).length = 0) ∧
    (px ≠ s.px → 1 ≤ (s.selectBytes px).length ∧ (s.selectBytes px).length ≤ 5) := by
  rw [State.selectBytes]
  split_ifs with h
  · simp [h]
  · rw [chunkBytes_length]
    exact ⟨fun e => absurd e h, fun _ => size_bounds (selectChunk_isChunk _ _ _)⟩

/-- The bytes of a PIXEL step do not carry CUR past its width, N having 32 bits. -/
theorem encodePixel_cur {s : State} (hcur : s.cur.toNat ≤ 21474836480) (px : Pixel) :
    (s.encodePixel px).cur.toNat =
      s.cur.toNat + ((s.countRun px).flushBytes px).length + (s.selectBytes px).length := by
  have hflush := (flushBytes_length (s.countRun px) px).1
  have hcount := (s.countRun px).run.isLt
  obtain ⟨hsame, hdiff⟩ := selectBytes_length s px
  have hselect : (s.selectBytes px).length ≤ 5 := by
    by_cases h : px = s.px
    · rw [hsame h]
      omega
    · exact (hdiff h).2
  rw [encodePixel_eq]
  simp only [emit_cur, BitVec.toNat_add, BitVec.toNat_ofNat]
  omega

theorem countRun_toNat {s : State} (hrun : s.run.toNat ≤ 8223) (px : Pixel) :
    (s.countRun px).run.toNat = if px = s.px then s.run.toNat + 1 else s.run.toNat := by
  rw [countRun_eq, setRun_run]
  split_ifs
  · bv_omega
  · rfl

/-- 42_chunk_encoder.md R159: the bytes emitted and the run pending stay within five a pixel. -/
theorem EncoderShape.encodePixel {s : State} (h : EncoderShape s) (hp : s.pos < s.n) (px : Pixel) :
    EncoderShape (s.encodePixel px) := by
  obtain ⟨hrun, -, hupper, -⟩ := h
  have hpos : (s.encodePixel px).pos.toNat = s.pos.toNat + 1 := by
    rw [encodePixel_eq]
    exact toNat_add_one_of_lt hp
  have hrun' : (s.encodePixel px).run = ((s.countRun px).flushRun px).run := by rw [encodePixel_eq]
  have hn : (s.encodePixel px).n = s.n := by rw [encodePixel_eq]; rfl
  have hcur := encodePixel_cur (s := s) (by have := s.pos.isLt; omega) px
  have hcount := countRun_toNat hrun px
  obtain ⟨hr, hlast⟩ := flushRun_run_bounds (s := s.countRun px) px (by rw [hcount]; split_ifs <;> omega)
  obtain ⟨hflush, hflush'⟩ := flushBytes_length (s.countRun px) px
  obtain ⟨hsame, hdiff⟩ := selectBytes_length s px
  have hgrow : (s.encodePixel px).cur.toNat + (s.encodePixel px).run.toNat ≤ s.cur.toNat + s.run.toNat + 5 ∧
      1 ≤ (s.encodePixel px).cur.toNat + (s.encodePixel px).run.toNat := by
    rw [hcur, hrun']
    by_cases hpx : px = s.px
    · have := hsame hpx
      rw [if_pos hpx] at hcount
      omega
    · have := hdiff hpx
      rw [if_neg hpx] at hcount
      omega
  obtain ⟨hupper', hlower'⟩ := hgrow
  refine ⟨hrun' ▸ hr, fun e => ?_, by omega, fun _ => hlower'⟩
  rw [hrun']
  refine hlast ?_
  rw [countRun_eq, setRun_pos, setRun_n, ← hpos, e, hn]

theorem Inv.encodePixel {s : State} (h : Inv s) (hm : s.mode = .enc) (hp : s.pos < s.n) (px : Pixel) :
    Inv (s.encodePixel px) := by
  have henc := (h.enc hm).encodePixel hp px
  rw [encodePixel_eq] at henc ⊢
  exact {
    buffers := ⟨h.buffers.src, Memory.writeBytes_wf _ (Memory.writeBytes_wf _ h.buffers.dst _) _⟩
    status := ⟨h.status.busy, h.status.done, h.status.err, h.status.underrun⟩
    pass := fun _ =>
      let p := h.pass (.inl hm)
      ⟨p.width, p.height, p.count, (toNat_add_one_of_lt hp).trans_le hp⟩
    enc := fun _ => henc
    dec := fun hm' => nomatch hm.symm.trans hm'
    errors := ⟨h.errors.code, h.errors.error⟩ }

theorem Inv.encFinish {s : State} (h : Inv s) : Inv (encFinish s) := by
  by_cases hb : Config.bodyMax < s.bodyLength
  · rw [encFinish_tooLong hb]
    exact h.buffers.inv_raise _
  · rw [encFinish_done hb]
    exact h.finished (Memory.writeBytes_wf _ (Memory.writeBytes_wf _ h.buffers.dst _) _)

/-! Every step. -/

theorem Inv.blockStep {s t : State} (h : Inv s) (hst : BlockStep s t) : Inv t := by
  cases hst with
  | rest _ => exact h
  | encPixel hm hp _ => exact h.encodePixel hm hp _
  | encFinish _ _ => exact h.encFinish
  | decHold hm hp hr => exact h.runHold hm hp hr
  | decChunk hm hp _ hc hf he => exact h.chunk hm hp hc hf he
  | decExhausted hm hp _ _ => exact h.exhausted hm hp
  | decFinish _ _ => exact h.finished h.buffers.dst

/-- A buffer the host leaves or fills is in canonical form. -/
theorem wf_of_kept_or_filled {m m' : Memory} (hm : m.wf = true) (h : m' = m ∨ ∃ bs, m' = Memory.ofBytes 0 bs) :
    m'.wf = true := by
  obtain rfl | ⟨bs, rfl⟩ := h
  · exact hm
  · exact Memory.ofBytes_wf bs 0

/-- Settles O49: each kind of step keeps the invariant. -/
theorem stepKeepsTheInvariant : Obligations.StepKeepsTheInvariant := by
  intro s t h hst
  cases StepCase.of_step hst with
  | block hb => exact h.inbox.blockStep hb
  | host hsrc hdst => exact h.host (wf_of_kept_or_filled h.buffers.src hsrc) (wf_of_kept_or_filled h.buffers.dst hdst)
  | raised e _ => exact h.buffers.inv_raise e
  | encodeBegun _ hc => exact h.encodeBegin hc
  | decodeBegun _ hc => exact h.decodeBegin hc

/-- Settles O50: reset is outside a pass, so only the empty buffers, STATUS and the error pair are spoken of. -/
theorem resetMeetsTheInvariant : Obligations.ResetMeetsTheInvariant where
  buffers := ⟨rfl, rfl⟩
  status := ⟨by decide, by decide, by decide, by decide⟩
  pass hm := by rcases hm with hm | hm <;> cases hm
  enc hm := nomatch hm
  dec hm := nomatch hm
  errors := ⟨.inl ⟨rfl, rfl⟩, fun hm => nomatch hm⟩

end Sys2Proof.Machine
end

section
/-! SUPPORT. What a step changes and what it reads: chunks, MODE, host writes and the argument registers. -/

namespace Sys2Proof.Machine

/-! The frame of a chunk. -/

/-- 43_chunk_decoder.md R199: RUN is a run chunk's own. -/
theorem exec_chunk_keeps_run {i : Instr} {s t : State} (hi : i.isChunk = true) (h : exec i s = .next t)
    (h8 : ∀ n, i ≠ .run8 n) (h16 : ∀ n, i ≠ .run16 n) : t.run = s.run := by
  cases i with
  | run8 n => exact absurd rfl (h8 n)
  | run16 n => exact absurd rfl (h16 n)
  | index | diff8 | diff16 | diff24 | color =>
    cases h
    rfl
  | encodeCmd | decodeCmd => cases hi

/-- A chunk writes no slot of the cache but that of its pixel (40_color_cache.md R117). -/
theorem exec_chunk_slot {i : Instr} {s t : State} (hi : i.isChunk = true) (h : exec i s = .next t) {slot : Fin 64}
    (hne : t.cache[slot] ≠ s.cache[slot]) : slot = hash t.px := by
  obtain ⟨p, cache, r, he, hcache⟩ := exec_chunk hi s
  obtain rfl := Host.Outcome.next.inj (h.symm.trans he)
  obtain rfl | rfl := hcache
  · exact absurd rfl hne
  · by_contra hs
    exact hne ((cacheLookup_update s.cache p slot).trans (if_neg (Ne.symm hs)))

/-- Settles O16: the frame is `exec_chunk`; what PX, RUN and the cache keep depends on the opcode. -/
theorem chunksChangeNothingElse : Obligations.ChunksChangeNothingElse := by
  intro i s t hi h
  have hrun : t.run ≠ s.run → (∃ n, i = .run8 n) ∨ (∃ n, i = .run16 n) := fun hne => by
    by_contra hno
    simp only [not_or, not_exists] at hno
    exact hne (exec_chunk_keeps_run hi h hno.1 hno.2)
  have hpx : t.px ≠ s.px → (∀ n, i ≠ .run8 n) ∧ (∀ n, i ≠ .run16 n) := fun hne => by
    constructor <;>
    · rintro n rfl
      cases h
      exact hne rfl
  have hcache : ∀ slot : Fin 64, t.cache[slot] ≠ s.cache[slot] →
      slot = hash t.px ∧ (∀ k, i ≠ .index k) ∧ (∀ n, i ≠ .run8 n) ∧ (∀ n, i ≠ .run16 n) := fun slot hne => by
    refine ⟨exec_chunk_slot hi h hne, ?_, ?_, ?_⟩ <;>
    · rintro k rfl
      cases h
      exact hne rfl
  obtain ⟨p, cache, r, he, -⟩ := exec_chunk hi s
  obtain rfl := Host.Outcome.next.inj (h.symm.trans he)
  exact ⟨rfl, hpx, hrun, hcache, fun _ => rfl, fun _ => rfl, rfl, rfl, rfl, rfl, rfl, rfl, rfl, rfl, rfl, rfl, rfl, rfl,
    rfl, rfl, rfl, rfl, rfl, rfl, rfl, rfl⟩

/-! MODE. -/

theorem encodePixel_mode (s : State) (px : Pixel) : (s.encodePixel px).mode = s.mode := by
  rw [encodePixel_eq]
  rfl

/-- 42_chunk_encoder.md R157, R158. -/
theorem encFinish_mode (s : State) :
    (encFinish s).mode = .done ∨
      (encFinish s).mode = .error ∧ (encFinish s).errClass = 1 ∧ (encFinish s).errCause = 5 := by
  by_cases hb : Config.bodyMax < s.bodyLength
  · rw [encFinish_tooLong hb]
    exact .inr ⟨rfl, rfl, rfl⟩
  · rw [encFinish_done hb]
    exact .inl rfl

/-- 43_chunk_decoder.md R193, R197. -/
theorem exhausted_mode (s : State) :
    s.exhausted.mode = s.mode ∨
      s.exhausted.mode = .error ∧ s.exhausted.errClass = 2 ∧ s.exhausted.errCause = 6 ∧
        s.cfg.strictTruncation = true := by
  by_cases hs : s.cfg.strictTruncation = true
  · rw [exhausted_strict hs]
    exact .inr ⟨rfl, rfl, rfl, hs⟩
  · rw [exhausted_lenient hs]
    exact .inl rfl

theorem exec_chunk_mode {i : Instr} {s t : State} (hi : i.isChunk = true) (h : exec i s = .next t) :
    t.mode = s.mode := by
  obtain ⟨p, cache, r, he, -⟩ := exec_chunk hi s
  obtain rfl := Host.Outcome.next.inj (h.symm.trans he)
  rfl

/-- 10_state.md R29 for the transitions from `s` to `t`, as O52 states them. -/
def ModeStep (s t : State) : Prop :=
  (s.mode = .idle ∨ s.mode = .done ∨ s.mode = .error →
    t.mode = s.mode ∨ t.mode = .enc ∨ t.mode = .dec ∨ t.mode = .error) ∧
  (s.mode = .enc → t.mode = .enc ∨ t.mode = .done ∨ (t.mode = .error ∧ t.errClass = 1 ∧ t.errCause = 5)) ∧
  (s.mode = .dec → t.mode = .dec ∨ t.mode = .done ∨
    (t.mode = .error ∧ t.errClass = 2 ∧ t.errCause = 6 ∧ s.cfg.strictTruncation = true))

theorem ModeStep.same {s t : State} (h : t.mode = s.mode) : ModeStep s t :=
  ⟨fun _ => .inl h, fun hm => .inl (h.trans hm), fun hm => .inl (h.trans hm)⟩

theorem ModeStep.of_enc {s t : State} (hm : s.mode = .enc)
    (h : t.mode = .enc ∨ t.mode = .done ∨ (t.mode = .error ∧ t.errClass = 1 ∧ t.errCause = 5)) : ModeStep s t :=
  ⟨by simp [hm], fun _ => h, by simp [hm]⟩

theorem ModeStep.of_dec {s t : State} (hm : s.mode = .dec)
    (h : t.mode = .dec ∨ t.mode = .done ∨
      (t.mode = .error ∧ t.errClass = 2 ∧ t.errCause = 6 ∧ s.cfg.strictTruncation = true)) : ModeStep s t :=
  ⟨by simp [hm], by simp [hm], fun _ => h⟩

theorem ModeStep.of_notBusy {s t : State} (h : Inv s) (hb : s.status.busy = false)
    (ht : t.mode = .enc ∨ t.mode = .dec ∨ t.mode = .error) : ModeStep s t := by
  have hm : ¬ (s.mode = .enc ∨ s.mode = .dec) := fun hm => by simp [h.status.busy.2 hm] at hb
  exact ⟨fun _ => .inr ht, fun he => absurd (.inl he) hm, fun hd => absurd (.inr hd) hm⟩

theorem ModeStep.of_blockStep {s t : State} (h : BlockStep s t) : ModeStep s t := by
  cases h with
  | rest _ => exact .same rfl
  | encPixel _ _ _ => exact .same (encodePixel_mode s _)
  | encFinish hm _ => exact .of_enc hm (.inr (encFinish_mode s))
  | decHold _ _ _ => exact .same rfl
  | decChunk _ _ _ _ hf he => exact .same ((storePixel_mode _).trans (exec_chunk_mode (fetchChunk_wf hf).2 he))
  | decExhausted hm _ _ _ =>
    obtain he | he := exhausted_mode s
    · exact .same he
    · exact .of_dec hm (.inr (.inr he))
  | decFinish hm _ => exact .of_dec hm (.inr (.inl rfl))

/-- Settles O52, by the kind of step: the block keeps to R29, and the host enters an error or begins a pass only while the
block is not BUSY, which the invariant makes a mode outside a pass. -/
theorem modeTransitions : Obligations.ModeTransitions := by
  intro s t h hst
  show ModeStep s t
  cases StepCase.of_step hst with
  | block hb =>
    have hm := ModeStep.of_blockStep hb
    exact hm
  | host _ _ => exact .same rfl
  | raised e hb => exact .of_notBusy h hb (.inr (.inr rfl))
  | encodeBegun hb _ => exact .of_notBusy h hb (.inl rfl)
  | decodeBegun hb _ => exact .of_notBusy h hb (.inr (.inl rfl))

/-! The argument registers. -/

/-- The state with other contents of the four argument registers (10_state.md R30). -/
def State.withArgs (s : State) (w h c : BitVec 32) (l : BitVec 64) : State :=
  { s with argWidth := w, argHeight := h, argChannels := c, argSrcLen := l }

section WithArgs
variable (s : State) (w h c : BitVec 32) (l : BitVec 64)

theorem countRun_withArgs (px : Pixel) :
    (s.withArgs w h c l).countRun px = (s.countRun px).withArgs w h c l := by
  rw [countRun_eq, countRun_eq]
  rfl

theorem encodePixel_withArgs (px : Pixel) :
    (s.withArgs w h c l).encodePixel px = (s.encodePixel px).withArgs w h c l := by
  rw [encodePixel_eq, encodePixel_eq, countRun_withArgs, flushRun_run, flushRun_run]
  rfl

theorem encFinish_withArgs : encFinish (s.withArgs w h c l) = (encFinish s).withArgs w h c l := by
  by_cases hb : Config.bodyMax < s.bodyLength
  · rw [encFinish_tooLong hb, encFinish_tooLong (s := s.withArgs w h c l) hb]
    rfl
  · rw [encFinish_done hb, encFinish_done (s := s.withArgs w h c l) hb]
    rfl

theorem exhausted_withArgs : (s.withArgs w h c l).exhausted = s.exhausted.withArgs w h c l := by
  by_cases hs : s.cfg.strictTruncation = true
  · rw [exhausted_strict hs, exhausted_strict (s := s.withArgs w h c l) hs]
    rfl
  · rw [exhausted_lenient hs, exhausted_lenient (s := s.withArgs w h c l) hs]
    rfl

variable {s}

theorem exec_chunk_withArgs {i : Instr} {t : State} (hi : i.isChunk = true) (he : exec i s = .next t) :
    exec i (s.withArgs w h c l) = .next (t.withArgs w h c l) := by
  cases i with
  | index | run8 | run16 | diff8 | diff16 | diff24 | color =>
    cases he
    rfl
  | encodeCmd | decodeCmd => cases hi

/-- The block's own step reads no argument register and writes none. -/
theorem BlockStep.withArgs {t : State} (hst : BlockStep s t) :
    BlockStep (s.withArgs w h c l) (t.withArgs w h c l) := by
  cases hst with
  | rest hm => exact .rest hm
  | encPixel hm hp hl =>
    rw [← encodePixel_withArgs]
    exact .encPixel hm hp hl
  | encFinish hm hp =>
    rw [← encFinish_withArgs]
    exact .encFinish hm hp
  | decHold hm hp hr => exact .decHold (s := s.withArgs w h c l) hm hp hr
  | decChunk hm hp hr hc hf he =>
    exact .decChunk (s := s.withArgs w h c l) hm hp hr hc hf (exec_chunk_withArgs w h c l (fetchChunk_wf hf).2 he)
  | decExhausted hm hp hr hc =>
    rw [← exhausted_withArgs]
    exact .decExhausted hm hp hr hc
  | decFinish hm hp => exact .decFinish (s := s.withArgs w h c l) hm hp

end WithArgs

/-- Settles O54: with the host silent a step is a `BlockStep`, from any argument registers. -/
theorem argumentWritesDoNotAffectAPass : Obligations.ArgumentWritesDoNotAffectAPass := by
  intro s t w h c l hi _ hst
  exact (step_silent_iff (s := s.withArgs w h c l) hi).2 (((step_silent_iff hi).1 hst).withArgs w h c l)

/-! The host. -/

/-- Settles O25: the value decodes to the command, and a host step is the outcome of its act. -/
theorem stepRunsTheWrittenCommand : Obligations.StepRunsTheWrittenCommand := by
  intro s v rest i hi hd
  rw [step_host hi, hostWork, commandWork_of_decode hd]
  rfl

/-- Settles O55: the act is the step's whole work. -/
theorem hostWritesOneArgument : Obligations.HostWritesOneArgument :=
  fun _ _ => ⟨fun _ hi => step_host hi, fun _ hi => step_host hi, fun _ hi => step_host hi, fun _ hi => step_host hi⟩

end Sys2Proof.Machine
end

section
/-! SUPPORT. The fetch stays in the stream, and the inputs of the block: the configuration, SRC and the argument
registers, which the host alone writes. -/

namespace Sys2Proof.Machine

/-! The fetch. -/

theorem literalCount_le (b1 : Byte) : literalCount b1 ≤ 4 := by
  have h3 := (b1.getLsbD 3).toNat_le
  have h2 := (b1.getLsbD 2).toNat_le
  have h1 := (b1.getLsbD 1).toNat_le
  have h0 := (b1.getLsbD 0).toNat_le
  simp only [literalCount]
  omega

/-- 30_encoding.md R87: the longest chunk, a COLOR with four literals, has five bytes. -/
theorem opLength_le (t : Tags) (b1 : Byte) : opLength t b1 ≤ 5 := by
  have := literalCount_le b1
  simp only [opLength]
  split_ifs <;> omega

/-- 43_chunk_decoder.md R184: a fetch reads the opcode byte, then as many bytes as it fixes. -/
theorem fetchBytes_eq_some {s : State} {bs : List Byte} :
    s.fetchBytes = some bs ↔
      ∃ b1, s.src.read s.cursorOffset = some b1 ∧
        s.src.readBytes s.cursorOffset (opLength s.cfg.tags b1) = some bs := by
  simp only [State.fetchBytes]
  cases s.src.read s.cursorOffset <;> simp

/-- Settles O31: a chunk takes at most five bytes, and one of them lies in the chunk region. -/
theorem fetchStaysInTheStream : Obligations.FetchStaysInTheStream := by
  intro s bs hc hf
  obtain ⟨b1, -, hbs⟩ := fetchBytes_eq_some.1 hf
  have hlen := Memory.readBytes_length hbs
  have hmax := opLength_le s.cfg.tags b1
  have hcur : s.cur.toNat < s.cdl.toNat := hc
  omega

/-! The inputs. -/

/-- What the block reads and never writes: 00_scope.md R8, 20_memory.md R51, 10_state.md R30. -/
structure Inputs where
  cfg         : Config
  src         : Memory
  argWidth    : BitVec 32
  argHeight   : BitVec 32
  argChannels : BitVec 32
  argSrcLen   : BitVec 64

/-- The inputs a state holds. -/
def State.inputs (s : State) : Inputs := ⟨s.cfg, s.src, s.argWidth, s.argHeight, s.argChannels, s.argSrcLen⟩

/-- Equal inputs, register by register. -/
theorem inputs_eq_iff {s t : State} :
    t.inputs = s.inputs ↔
      t.cfg = s.cfg ∧ t.src = s.src ∧ t.argWidth = s.argWidth ∧ t.argHeight = s.argHeight ∧
        t.argChannels = s.argChannels ∧ t.argSrcLen = s.argSrcLen := by
  simp only [State.inputs, Inputs.mk.injEq]

theorem storePixel_inputs (s : State) : s.storePixel.inputs = s.inputs := rfl

theorem encodePixel_inputs (s : State) (px : Pixel) : (s.encodePixel px).inputs = s.inputs := by
  rw [encodePixel_eq]
  rfl

theorem encFinish_inputs (s : State) : (encFinish s).inputs = s.inputs := by
  by_cases hb : Config.bodyMax < s.bodyLength
  · rw [encFinish_tooLong hb]
    rfl
  · rw [encFinish_done hb]
    rfl

theorem exhausted_inputs (s : State) : s.exhausted.inputs = s.inputs := by
  by_cases hs : s.cfg.strictTruncation = true
  · rw [exhausted_strict hs]
    rfl
  · rw [exhausted_lenient hs]
    rfl

/-- No instruction writes an input: a chunk by its frame, a command whether it is ignored, fails or begins a pass. -/
theorem exec_inputs {i : Instr} {s t : State} (h : exec i s = .next t) : t.inputs = s.inputs := by
  cases i with
  | index | run8 | run16 | diff8 | diff16 | diff24 | color =>
    cases h
    rfl
  | encodeCmd =>
    obtain ⟨-, e⟩ | ⟨_, -, -, e⟩ | ⟨_, -, -, e⟩ := exec_encode_cases s <;>
    · rw [e] at h
      cases h
      rfl
  | decodeCmd =>
    obtain ⟨-, e⟩ | ⟨-, -, e⟩ | ⟨_, -, -, e⟩ | ⟨_, _, -, -, e⟩ := exec_decode_cases s <;>
    · rw [e] at h
      cases h <;> rfl

theorem BlockStep.inputs {s t : State} (h : BlockStep s t) : t.inputs = s.inputs := by
  cases h with
  | rest _ | decHold _ _ _ | decFinish _ _ => rfl
  | encPixel _ _ _ => exact encodePixel_inputs s _
  | encFinish _ _ => exact encFinish_inputs s
  | decChunk _ _ _ _ _ he => exact (storePixel_inputs _).trans (exec_inputs he)
  | decExhausted _ _ _ _ => exact exhausted_inputs s

/-- A write of CMD, whatever the value, writes no input. -/
theorem commandWork_inputs {s t : State} {v : BitVec 32} (h : (commandWork v s).outcome = .next t) :
    t.inputs = s.inputs := by
  simp only [commandWork] at h
  split at h
  · exact exec_inputs h
  · split_ifs at h <;>
    · cases h
      rfl

/-- Equal inputs give what O53 claims of a step, whatever the host's act. -/
theorem inputs_frame {s t : State} (h : t.inputs = s.inputs) {fillsSrc width height channels srcLen : Prop} :
    t.cfg = s.cfg ∧ (fillsSrc → ∀ a, t.src.read a = s.src.read a) ∧ (width → t.argWidth = s.argWidth) ∧
      (height → t.argHeight = s.argHeight) ∧ (channels → t.argChannels = s.argChannels) ∧
      (srcLen → t.argSrcLen = s.argSrcLen) := by
  obtain ⟨hcfg, hsrc, hw, hh, hc, hl⟩ := inputs_eq_iff.1 h
  exact ⟨hcfg, fun _ a => by rw [hsrc], fun _ => hw, fun _ => hh, fun _ => hc, fun _ => hl⟩

/-- Settles O53, by the host's act: the block's own step and a command leave every input, and a host write of one input
leaves the others. -/
theorem blockNeverWritesItsInputs : Obligations.BlockNeverWritesItsInputs := by
  intro s t h
  cases hi : s.inbox with
  | nil => exact inputs_frame ((step_silent_iff hi).1 h).inputs
  | cons act rest =>
    rw [step_host hi] at h
    cases act with
    | writeArgWidth v | writeArgHeight v | writeArgChannels v | writeArgSrcLen v =>
      cases h
      simp
    | fillSrc bs =>
      simp only [hostWork] at h
      split_ifs at h <;> cases h
      simp
    | provideDst bs =>
      simp only [hostWork] at h
      split_ifs at h <;> cases h
      exact inputs_frame rfl
    | writeCmd v => exact inputs_frame (commandWork_inputs h)
    | letRun => exact inputs_frame (BlockStep.of_blockWork h).inputs
    | awaitNotBusy =>
      simp only [hostWork] at h
      split_ifs at h
      · exact inputs_frame (BlockStep.of_blockWork h).inputs
      · cases h
        exact inputs_frame rfl

end Sys2Proof.Machine
end

section
/-! SUPPORT. Fields of a word: concatenations taken apart, a tag with the operand bits under it, and the two ways an
operand is carried by a field. -/

namespace Sys2Proof

/-- Adjoining fields of a word are a concatenation exactly when each is its part. -/
theorem extractLsb'_eq_append_iff {n p q : Nat} (x : BitVec n) (start : Nat) (hi : BitVec p) (lo : BitVec q) :
    x.extractLsb' start (p + q) = hi ++ lo ↔ x.extractLsb' (start + q) p = hi ∧ x.extractLsb' start q = lo := by
  rw [← BitVec.extractLsb'_append_extractLsb'_eq_extractLsb' rfl]
  constructor
  · intro h
    have hhi := congrArg (BitVec.extractLsb' q p) h
    have hlo := congrArg (BitVec.extractLsb' 0 q) h
    rw [BitVec.extractLsb'_append_eq_left, BitVec.extractLsb'_append_eq_left] at hhi
    rw [BitVec.extractLsb'_append_eq_right, BitVec.extractLsb'_append_eq_right] at hlo
    exact ⟨hhi, hlo⟩
  · rintro ⟨rfl, rfl⟩
    rfl

/-- A whole word is a concatenation exactly when its high and its low part are. -/
theorem eq_append_iff {p q : Nat} (x : BitVec (p + q)) (hi : BitVec p) (lo : BitVec q) :
    x = hi ++ lo ↔ x.extractLsb' q p = hi ∧ x.extractLsb' 0 q = lo := by
  have h := extractLsb'_eq_append_iff x 0 hi lo
  rwa [BitVec.extractLsb'_eq_self, Nat.zero_add] at h

/-- The lowest bits of a concatenation, more of them than its low half has. -/
theorem extractLsb'_zero_append {m q : Nat} (x : BitVec m) (y : BitVec q) (p : Nat) :
    (x ++ y).extractLsb' 0 (p + q) = x.extractLsb' 0 p ++ y := by
  rw [extractLsb'_eq_append_iff, BitVec.extractLsb'_append_eq_of_le (Nat.le_add_left q 0), Nat.add_sub_cancel]
  exact ⟨rfl, BitVec.extractLsb'_append_eq_right⟩

/-- A field of one bit is that bit. -/
theorem extractLsb'_eq_ofBool_iff {n : Nat} (x : BitVec n) (start : Nat) (f : Bool) :
    x.extractLsb' start 1 = BitVec.ofBool f ↔ f = x.getLsbD start := by
  have hbit : x.extractLsb' start 1 = BitVec.ofBool (x.getLsbD start) := by
    ext j hj
    obtain rfl : j = 0 := by omega
    simp
  rw [hbit, BitVec.ofBool_eq_iff_eq, eq_comm]

/-- 30_encoding.md R78: the mask of a tag that leaves the lowest k bits of a byte to the operand. -/
def MaskLeaves (k : Nat) (mask : Byte) : Prop := k ≤ 8 ∧ ∀ j < 8, mask.getLsbD j = decide (k ≤ j)

theorem mask2_leaves : MaskLeaves 6 Config.mask2 := ⟨by decide, by decide⟩

theorem mask3_leaves : MaskLeaves 5 Config.mask3 := ⟨by decide, by decide⟩

theorem mask4_leaves : MaskLeaves 4 Config.mask4 := ⟨by decide, by decide⟩

/-- R78, R79 (a): the bits above the lowest k are a tag and the lowest k a field exactly when the byte is
the tag with the field or-ed in. -/
theorem tag_and_field_iff {k : Nat} {mask tag : Byte} (hmask : MaskLeaves k mask) (htag : tag &&& mask = tag) (b : Byte)
    (f : BitVec k) : b &&& mask = tag ∧ b.extractLsb' 0 k = f ↔ b = tag ||| f.setWidth 8 := by
  obtain ⟨hk, hmask⟩ := hmask
  constructor
  · rintro ⟨rfl, rfl⟩
    refine BitVec.eq_of_getLsbD_eq fun j hj => ?_
    rw [BitVec.getLsbD_or, BitVec.getLsbD_and, BitVec.getLsbD_setWidth, BitVec.getLsbD_extractLsb', hmask j hj]
    by_cases hjk : j < k
    · simp [hj, hjk]
    · simp [hjk, Nat.le_of_not_lt hjk]
  · rintro rfl
    have hlow : ∀ j < 8, j < k → tag.getLsbD j = false := fun j hj hjk => by
      rw [← htag, BitVec.getLsbD_and, hmask j hj, decide_eq_false (by omega), Bool.and_false]
    constructor <;> refine BitVec.eq_of_getLsbD_eq fun j hj => ?_
    · rw [BitVec.getLsbD_and, BitVec.getLsbD_or, BitVec.getLsbD_setWidth, hmask j hj]
      by_cases hjk : j < k
      · simp [hlow j hj hjk, Nat.not_le_of_lt hjk]
      · simp [Nat.le_of_not_lt hjk]
    · have hj8 : j < 8 := by omega
      rw [BitVec.getLsbD_extractLsb', BitVec.getLsbD_or, BitVec.getLsbD_setWidth, Nat.zero_add, hlow j hj8 hj]
      simp [hj, hj8]

/-- R88: a field stands for a delta exactly when the delta is in the field's range and the field carries it. -/
theorem unbias_eq_iff {w : Nat} {bias d : Int} {field : BitVec w} :
    unbias bias field = d ↔ inRange (-bias) (2 ^ w - 1 - bias) d = true ∧ field = biased w bias d := by
  simp only [inRange, Bool.and_eq_true, decide_eq_true_eq, biased]
  constructor
  · rintro rfl
    have := unbias_bounds bias field
    refine ⟨by omega, ?_⟩
    rw [unbias, sub_add_cancel, BitVec.ofInt_natCast, BitVec.ofNat_toNat, BitVec.setWidth_eq]
  · rintro ⟨⟨hlo, hhi⟩, rfl⟩
    have h0 : 0 ≤ d + bias := by omega
    have h1 : d + bias < (2 ^ w : Nat) := by push_cast; omega
    rw [unbias, BitVec.toNat_ofInt, Int.emod_eq_of_lt h0 h1, Int.toNat_of_nonneg h0, add_sub_cancel_right]

/-- R89: a field stands for a count from `first` on exactly when the count is in the field's range and the field
carries it. -/
theorem toNat_add_eq_iff {w first n : Nat} {field : BitVec w} :
    field.toNat + first = n ↔ (first ≤ n ∧ n - first < 2 ^ w) ∧ field = BitVec.ofNat w (n - first) := by
  constructor
  · rintro rfl
    have := field.isLt
    refine ⟨by omega, ?_⟩
    rw [Nat.add_sub_cancel, BitVec.ofNat_toNat, BitVec.setWidth_eq]
  · rintro ⟨⟨hlo, hhi⟩, rfl⟩
    rw [BitVec.toNat_ofNat, Nat.mod_eq_of_lt hhi, Nat.sub_add_cancel hlo]

end Sys2Proof
end

section
/-! SUPPORT. The seven tags share out the 256 byte values. -/

namespace Sys2Proof

theorem Tags.rowMatches_iff {row : Byte × Byte} {b : Byte} : Tags.rowMatches row b = true ↔ b &&& row.1 = row.2 :=
  beq_iff_eq

/-- A byte carries the tags of two rows only if the tags agree in every bit that both masks keep. -/
theorem Tags.not_disjoint_of_match {x y : Byte × Byte} {b : Byte} (hx : Tags.rowMatches x b = true)
    (hy : Tags.rowMatches y b = true) : Tags.disjoint x y = false := by
  rw [Tags.rowMatches_iff] at hx hy
  rw [Tags.disjoint, bne_eq_false_iff_eq, ← hx, ← hy, BitVec.and_assoc, BitVec.and_assoc, ← BitVec.and_assoc x.1,
    BitVec.and_self, BitVec.and_comm x.1 y.1, ← BitVec.and_assoc y.1, BitVec.and_self]

/-- No byte carries two tags of a list in which no tag begins another. -/
theorem Tags.countP_match_le_one {rows : List (Byte × Byte)} (h : rows.Pairwise (fun x y => Tags.disjoint x y = true))
    (b : Byte) : rows.countP (fun row => Tags.rowMatches row b) ≤ 1 := by
  rw [List.countP_eq_length_filter]
  have hpair := h.filter (fun row => Tags.rowMatches row b)
  have hmatch : ∀ row ∈ rows.filter (fun row => Tags.rowMatches row b), Tags.rowMatches row b = true :=
    fun row hrow => (List.mem_filter.1 hrow).2
  match rows.filter (fun row => Tags.rowMatches row b), hpair, hmatch with
  | [], _, _ => exact Nat.zero_le 1
  | [_], _, _ => exact Nat.le_refl 1
  | x :: y :: _, hpair, hmatch =>
    have hdisjoint : Tags.disjoint x y = true := (List.pairwise_cons.1 hpair).1 y (by simp)
    rw [Tags.not_disjoint_of_match (hmatch x (by simp)) (hmatch y (by simp))] at hdisjoint
    cases hdisjoint

/-- The number of byte values that carry a row's tag. -/
def Tags.coverage (row : Byte × Byte) : Nat := (Finset.univ.filter fun b => Tags.rowMatches row b = true).card

/-- A tag that leaves k bits open is carried by as many bytes as a field of k bits has values. -/
theorem Tags.coverage_eq {k : Nat} {mask tag : Byte} (hmask : MaskLeaves k mask) (htag : tag &&& mask = tag) :
    Tags.coverage (mask, tag) = 2 ^ k := by
  have hiff := tag_and_field_iff hmask htag
  calc Tags.coverage (mask, tag) = (Finset.univ : Finset (BitVec k)).card := by
        refine Finset.card_bij' (fun b _ => b.extractLsb' 0 k) (fun f _ => tag ||| f.setWidth 8)
          (fun _ _ => Finset.mem_univ _) (fun f _ => ?_) (fun b hb => ?_) (fun f _ => ((hiff _ f).2 rfl).2)
        · exact Finset.mem_filter.2 ⟨Finset.mem_univ _, Tags.rowMatches_iff.2 ((hiff _ f).2 rfl).1⟩
        · exact ((hiff b _).1 ⟨Tags.rowMatches_iff.1 (Finset.mem_filter.1 hb).2, rfl⟩).symm
    _ = 2 ^ k := by rw [Finset.card_univ, ← FinEnum.card_eq_fintypeCard, FinEnum.card_bitVec]

/-- Counting the pairs of a row and a byte that carries its tag, by bytes and by rows. -/
theorem Tags.sum_countP_match (rows : List (Byte × Byte)) :
    ∑ b : Byte, rows.countP (fun row => Tags.rowMatches row b) = (rows.map Tags.coverage).sum := by
  induction rows with
  | nil => simp
  | cons row rows ih =>
    simp only [List.countP_cons, Finset.sum_add_distrib, ih, List.map_cons, List.sum_cons, Finset.sum_boole,
      Nat.cast_id, Tags.coverage, Nat.add_comm]

/-- 30_encoding.md R79 (d): tags of these lengths share out 64 + 64 + 3 · 32 + 2 · 16 = 256 bytes. -/
theorem Tags.sum_coverage {t : Tags} (h : t.valid) : (t.rows.map Tags.coverage).sum = 256 := by
  obtain ⟨⟨hindex, hdiff8, hrun16, hdiff16, hdiff24, hcolor⟩, -⟩ := Tags.valid_pairs h
  simp only [Tags.rows, List.map_cons, List.map_nil, Tags.coverage_eq mask2_leaves hindex,
    Tags.coverage_eq mask2_leaves hdiff8, Tags.coverage_eq mask3_leaves (tag := Config.tagRun8) rfl,
    Tags.coverage_eq mask3_leaves hrun16, Tags.coverage_eq mask3_leaves hdiff16, Tags.coverage_eq mask4_leaves hdiff24,
    Tags.coverage_eq mask4_leaves hcolor]
  rfl

/-- Settles O4, by counting: no byte carries two tags, and the bytes that carry the seven tags number 256 in all. -/
theorem everyByteCarriesExactlyOneTag : Obligations.EveryByteCarriesExactlyOneTag := by
  intro t b h
  have hle : ∀ b ∈ (Finset.univ : Finset Byte), t.rows.countP (fun row => Tags.rowMatches row b) ≤ 1 :=
    fun b _ => Tags.countP_match_le_one h.2 b
  have hsum : ∑ b : Byte, t.rows.countP (fun row => Tags.rowMatches row b) = ∑ _b : Byte, 1 := by
    rw [Tags.sum_countP_match, Tags.sum_coverage h, Finset.sum_const, Finset.card_univ, ← FinEnum.card_eq_fintypeCard,
      FinEnum.card_bitVec]
    rfl
  rw [← List.countP_eq_length_filter]
  exact (Finset.sum_eq_sum_iff_of_le hle).1 hsum b (Finset.mem_univ b)

/-- The byte's row, by name. -/
theorem Tags.row_of_byte {t : Tags} (h : t.valid) (b : Byte) :
    b &&& Config.mask2 = t.index ∨ b &&& Config.mask2 = t.diff8 ∨ b &&& Config.mask3 = Config.tagRun8 ∨
      b &&& Config.mask3 = t.run16 ∨ b &&& Config.mask3 = t.diff16 ∨ b &&& Config.mask4 = t.diff24 ∨
      b &&& Config.mask4 = t.color := by
  have hone := everyByteCarriesExactlyOneTag t b h
  obtain ⟨row, hrow⟩ := List.exists_mem_of_length_pos (Nat.lt_of_lt_of_eq Nat.zero_lt_one hone.symm)
  obtain ⟨hmem, hmatch⟩ := List.mem_filter.1 hrow
  rw [Tags.rowMatches_iff] at hmatch
  simp only [Tags.rows, List.mem_cons, List.not_mem_nil, or_false] at hmem
  rcases hmem with rfl | rfl | rfl | rfl | rfl | rfl | rfl <;> simp only [hmatch, true_or, or_true]

end Sys2Proof
end

section
/-! SUPPORT. The length of a chunk from its first byte, tag by tag. -/

namespace Sys2Proof

/-! 30_encoding.md R87 under each tag. -/

theorem opLength_one {t : Tags} {b1 : Byte}
    (hb : b1 &&& Config.mask2 = t.index ∨ b1 &&& Config.mask2 = t.diff8 ∨ b1 &&& Config.mask3 = Config.tagRun8) :
    opLength t b1 = 1 := if_pos hb

theorem opLength_two {t : Tags} {b1 : Byte} (h : t.valid)
    (hb : b1 &&& Config.mask3 = t.run16 ∨ b1 &&& Config.mask3 = t.diff16) : opLength t b1 = 2 := by
  obtain ⟨-, -, -, ⟨r1, r2, r3⟩, ⟨d1, d2, d3, -⟩, -, -⟩ := Tags.valid_pairs h
  rcases hb with hb | hb
  · simp only [opLength, mask3_mask2 b1, hb, r1, r2, r3, or_self, true_or, if_false, if_true]
  · simp only [opLength, mask3_mask2 b1, hb, d1, d2, d3, or_self, or_true, if_false, if_true]

theorem opLength_three {t : Tags} {b1 : Byte} (h : t.valid) (hb : b1 &&& Config.mask4 = t.diff24) :
    opLength t b1 = 3 := by
  obtain ⟨-, -, -, -, -, ⟨h1, h2, h3, h4, h5⟩, -⟩ := Tags.valid_pairs h
  simp only [opLength, mask4_mask2 b1, mask4_mask3 b1, hb, h1, h2, h3, h4, h5, or_self, if_false, if_true]

theorem opLength_color {t : Tags} {b1 : Byte} (h : t.valid) (hb : b1 &&& Config.mask4 = t.color) :
    opLength t b1 = 1 + literalCount b1 := by
  obtain ⟨-, -, -, -, -, -, h1, h2, h3, h4, h5, h6⟩ := Tags.valid_pairs h
  simp only [opLength, mask4_mask2 b1, mask4_mask3 b1, hb, h1, h2, h3, h4, h5, h6, or_self, if_false]

/-! R86: the popcount of the low four bits. -/

/-- The set bits of a number are its lowest bit and those of its half. -/
theorem count_bits_eq (n : Nat) : n.bits.count true = (n.testBit 0).toNat + (n / 2).bits.count true := by
  rcases Nat.even_or_odd' n with ⟨m, rfl | rfl⟩
  · rcases Nat.eq_zero_or_pos m with rfl | hm
    · rfl
    · simp [Nat.bit0_bits m hm.ne']
  · have hhalf : (2 * m + 1) / 2 = m := by omega
    rw [hhalf, Nat.bit1_bits, List.count_cons_self, Nat.add_comm]
    simp

/-- The number of set bits among k, bit by bit. -/
theorem count_bits_eq_sum {k n : Nat} (hn : n < 2 ^ k) :
    n.bits.count true = ∑ j ∈ Finset.range k, (n.testBit j).toNat := by
  induction k generalizing n with
  | zero =>
    obtain rfl : n = 0 := by omega
    rfl
  | succ k ih =>
    rw [count_bits_eq, ih (n := n / 2) (by omega), Finset.sum_range_succ', Nat.add_comm]
    simp only [Nat.testBit_div_two]

theorem literalCount_eq_popcount (b1 : Byte) : literalCount b1 = (b1 &&& 0x0F).toNat.bits.count true := by
  have hlt : (b1 &&& 0x0F).toNat < 2 ^ 4 := by
    rw [BitVec.toNat_and]
    exact Nat.and_lt_two_pow _ (by decide)
  rw [count_bits_eq_sum hlt]
  have hlow : ∀ j < 4, (0x0F : Byte).getLsbD j = true := by decide
  simp only [BitVec.testBit_toNat, BitVec.getLsbD_and, Finset.sum_range_succ, Finset.sum_range_zero, literalCount,
    hlow 0 (by decide), hlow 1 (by decide), hlow 2 (by decide), hlow 3 (by decide), Bool.and_true]
  omega

/-- Settles O5: each tag fixes R87's length, and an accepted chunk has the length its first byte fixes. -/
theorem firstByteFixesChunkLength : Obligations.FirstByteFixesChunkLength := by
  intro t b1 tail rest i h hd
  obtain ⟨_, ops, hbs, hsize, hops, hchunk⟩ := decodeChunk_ok hd
  cases hbs
  obtain ⟨hmin, hmax⟩ := Machine.size_bounds hchunk
  refine ⟨fun hb => hsize.trans (opLength_one hb), fun hb => hsize.trans (opLength_two h hb),
    fun hb => hsize.trans (opLength_three h hb), fun hb => ?_, hmin, hmax, ?_⟩
  · rw [hsize, opLength_color h hb, literalCount_eq_popcount]
  · rw [← hops, Nat.add_sub_cancel, List.drop_left]

/-! R91: no opcode byte is illegal. -/

/-- A literal is there to take when it is not flagged or a byte is left. -/
theorem takeLiteral_total {f : Bool} {bs : List Byte} (h : f.toNat ≤ bs.length) :
    ∃ o rest, takeLiteral f bs = .ok (o, rest) ∧ rest.length + f.toNat = bs.length := by
  match f, bs with
  | false, bs => exact ⟨none, bs, rfl, rfl⟩
  | true, v :: rest => exact ⟨some v, rest, rfl, rfl⟩

theorem decodeColor_total {b1 : Byte} {bs : List Byte} (h : literalCount b1 ≤ bs.length) :
    ∃ i rest, decodeColor b1 bs = .ok (i, rest) := by
  unfold literalCount at h
  obtain ⟨r, bs1, h1, l1⟩ := takeLiteral_total (f := b1.getLsbD 3) (bs := bs) (by omega)
  obtain ⟨g, bs2, h2, l2⟩ := takeLiteral_total (f := b1.getLsbD 2) (bs := bs1) (by omega)
  obtain ⟨b, bs3, h3, l3⟩ := takeLiteral_total (f := b1.getLsbD 1) (bs := bs2) (by omega)
  obtain ⟨a, bs4, h4, l4⟩ := takeLiteral_total (f := b1.getLsbD 0) (bs := bs3) (by omega)
  exact ⟨.color r g b a, bs4, by simp only [decodeColor, h1, h2, h3, h4]⟩

/-- Four bytes after the first are enough for any chunk, for any tags. -/
theorem decodeChunk_total {t : Tags} {b1 : Byte} {tail : List Byte} (h : 4 ≤ tail.length) :
    ∃ i rest, decodeChunk t (b1 :: tail) = .ok (i, rest) := by
  obtain ⟨i, rest, hcolor⟩ := decodeColor_total ((Machine.literalCount_le b1).trans h)
  match tail with
  | b2 :: b3 :: tail =>
    simp only [decodeChunk]
    split_ifs
    · exact ⟨_, _, rfl⟩
    · exact ⟨_, _, rfl⟩
    · exact ⟨_, _, rfl⟩
    · exact ⟨_, _, rfl⟩
    · exact ⟨_, _, rfl⟩
    · exact ⟨_, _, rfl⟩
    · exact ⟨i, rest, hcolor⟩

/-- Settles O6: four bytes after the opcode byte are enough for the longest chunk. -/
theorem noOpcodeByteIsIllegal : Obligations.NoOpcodeByteIsIllegal := by
  intro t b1 tail h
  obtain ⟨i, rest, hd⟩ := decodeChunk_total (t := t) (b1 := b1) h
  obtain ⟨_, _, _, _, _, hchunk⟩ := decodeChunk_ok hd
  exact ⟨i, rest, hd, decodeChunk_wf hd, hchunk⟩

end Sys2Proof
end

section
/-! SUPPORT. Row by row: the bytes that carry a tag and decode to an instruction are exactly those a well-formed
instruction is encoded to. One equivalence for each row serves O2 and O3. -/

namespace Sys2Proof

/-! The operand fields of a chunk as one word, by the rows of 30_encoding.md R82 to R86. -/

theorem run16Field_iff {v : BitVec 13} {b1 b2 : Byte} :
    b1.extractLsb' 0 5 ++ b2 = v ↔ b1.extractLsb' 0 5 = v.extractLsb' 8 5 ∧ b2 = v.extractLsb' 0 8 := by
  have h : v = b1.extractLsb' 0 5 ++ b2 ↔ v.extractLsb' 8 5 = b1.extractLsb' 0 5 ∧ v.extractLsb' 0 8 = b2 :=
    eq_append_iff (p := 5) (q := 8) v _ b2
  rw [eq_comm, h, eq_comm, eq_comm (a := b2)]

theorem diff8Fields_iff {b1 : Byte} {r g b : BitVec 2} :
    b1.extractLsb' 0 6 = r ++ g ++ b ↔
      (b1.extractLsb' 4 2 = r ∧ b1.extractLsb' 2 2 = g) ∧ b1.extractLsb' 0 2 = b :=
  (extractLsb'_eq_append_iff b1 0 (r ++ g) b).trans (and_congr_left' (extractLsb'_eq_append_iff b1 2 r g))

theorem diff16Fields_iff {b2 : Byte} {g b : BitVec 4} :
    b2 = g ++ b ↔ b2.extractLsb' 4 4 = g ∧ b2.extractLsb' 0 4 = b :=
  eq_append_iff (p := 4) (q := 4) b2 g b

/-- R85: the low 20 bits of the 24 are the four bits after the tag and the two whole bytes. -/
theorem diff24Bytes_iff {v : BitVec 20} {b1 b2 b3 : Byte} :
    (b1 ++ b2 ++ b3).extractLsb' 0 20 = v ↔
      b1.extractLsb' 0 4 = v.extractLsb' 16 4 ∧ b2 = v.extractLsb' 8 8 ∧ b3 = v.extractLsb' 0 8 := by
  have hlow : (b1 ++ b2 ++ b3).extractLsb' 0 20 = b1.extractLsb' 0 4 ++ b2 ++ b3 :=
    (extractLsb'_zero_append (b1 ++ b2) b3 12).trans (congrArg (· ++ b3) (extractLsb'_zero_append b1 b2 4))
  have hb3 : v = b1.extractLsb' 0 4 ++ b2 ++ b3 ↔
      v.extractLsb' 8 12 = b1.extractLsb' 0 4 ++ b2 ∧ v.extractLsb' 0 8 = b3 :=
    eq_append_iff (p := 12) (q := 8) v (b1.extractLsb' 0 4 ++ b2) b3
  have hb2 : v.extractLsb' 8 12 = b1.extractLsb' 0 4 ++ b2 ↔
      v.extractLsb' 16 4 = b1.extractLsb' 0 4 ∧ v.extractLsb' 8 8 = b2 :=
    extractLsb'_eq_append_iff v 8 (b1.extractLsb' 0 4) b2
  rw [hlow, eq_comm, hb3, hb2, and_assoc, eq_comm, eq_comm (a := b2), eq_comm (a := b3)]

theorem diff24Fields_iff {v : BitVec 24} {r g b a : BitVec 5} :
    v.extractLsb' 0 20 = r ++ g ++ b ++ a ↔
      ((v.extractLsb' 15 5 = r ∧ v.extractLsb' 10 5 = g) ∧ v.extractLsb' 5 5 = b) ∧ v.extractLsb' 0 5 = a :=
  (extractLsb'_eq_append_iff v 0 (r ++ g ++ b) a).trans (and_congr_left'
    ((extractLsb'_eq_append_iff v 5 (r ++ g) b).trans (and_congr_left' (extractLsb'_eq_append_iff v 10 r g))))

/-- Four flag bits, one by one. -/
theorem flagBits_iff {b1 : Byte} {r g b a : BitVec 1} :
    b1.extractLsb' 0 4 = r ++ g ++ b ++ a ↔
      ((b1.extractLsb' 3 1 = r ∧ b1.extractLsb' 2 1 = g) ∧ b1.extractLsb' 1 1 = b) ∧ b1.extractLsb' 0 1 = a :=
  (extractLsb'_eq_append_iff b1 0 (r ++ g ++ b) a).trans (and_congr_left'
    ((extractLsb'_eq_append_iff b1 1 (r ++ g) b).trans (and_congr_left' (extractLsb'_eq_append_iff b1 2 r g))))

theorem colorFlags_iff {b1 : Byte} {r g b a : Option Byte} :
    b1.extractLsb' 0 4 = colorFlags r g b a ↔
      ((r.isSome = b1.getLsbD 3 ∧ g.isSome = b1.getLsbD 2) ∧ b.isSome = b1.getLsbD 1) ∧ a.isSome = b1.getLsbD 0 := by
  rw [colorFlags, flagBits_iff, extractLsb'_eq_ofBool_iff, extractLsb'_eq_ofBool_iff, extractLsb'_eq_ofBool_iff,
    extractLsb'_eq_ofBool_iff]

section Rows
variable {t : Tags} {b1 b2 b3 : Byte}

/-- 30_encoding.md R80. -/
theorem index_bytes_iff (htag : t.index &&& Config.mask2 = t.index) {slot : Fin 64} :
    b1 &&& Config.mask2 = t.index ∧ Instr.index (b1.extractLsb' 0 6).toFin = .index slot ↔
      (Instr.index slot).wf = true ∧ [b1] = chunkBytes t (.index slot) := by
  have hfield : (b1.extractLsb' 0 6).toFin = slot ↔ b1.extractLsb' 0 6 = BitVec.ofFin slot :=
    ⟨congrArg BitVec.ofFin, congrArg BitVec.toFin⟩
  have hbytes : chunkBytes t (.index slot) = [t.index ||| (BitVec.ofFin slot : BitVec 6).setWidth 8] := by
    rw [← BitVec.ofNat_toNat]
    rfl
  rw [hbytes, Instr.index.injEq, hfield, tag_and_field_iff mask2_leaves htag, List.singleton_inj]
  exact (and_iff_right rfl).symm

/-- R81. -/
theorem run8_bytes_iff {n : Nat} :
    b1 &&& Config.mask3 = Config.tagRun8 ∧ decodeRun8 b1 = .run8 n ↔
      (Instr.run8 n).wf = true ∧ [b1] = chunkBytes t (.run8 n) := by
  have hbytes : chunkBytes t (.run8 n) = encodeRun8 n := rfl
  have hwf : (Instr.run8 n).wf = true ↔ 1 ≤ n ∧ n - 1 < 2 ^ 5 := by
    simp only [Instr.wf, Bool.and_eq_true, decide_eq_true_eq, Config.run8Max]
    omega
  rw [hbytes, hwf, encodeRun8, List.singleton_inj, ← tag_and_field_iff mask3_leaves rfl, decodeRun8,
    Instr.run8.injEq, toNat_add_eq_iff]
  exact and_left_comm

/-- R82. -/
theorem run16_bytes_iff (htag : t.run16 &&& Config.mask3 = t.run16) {n : Nat} :
    b1 &&& Config.mask3 = t.run16 ∧ decodeRun16 b1 b2 = .run16 n ↔
      (Instr.run16 n).wf = true ∧ [b1, b2] = chunkBytes t (.run16 n) := by
  have hbytes : chunkBytes t (.run16 n) = encodeRun16 t n := rfl
  have hwf : (Instr.run16 n).wf = true ↔ 33 ≤ n ∧ n - 33 < 2 ^ 13 := by
    simp only [Instr.wf, Bool.and_eq_true, decide_eq_true_eq, Config.run8Max, Config.runMax]
    omega
  have hdecode : decodeRun16 b1 b2 = .run16 n ↔
      (33 ≤ n ∧ n - 33 < 2 ^ 13) ∧ b1.extractLsb' 0 5 ++ b2 = BitVec.ofNat 13 (n - 33) := by
    rw [decodeRun16, Instr.run16.injEq]
    exact toNat_add_eq_iff
  rw [hbytes, hwf, hdecode, encodeRun16, List.cons.injEq, List.singleton_inj, ← tag_and_field_iff mask3_leaves htag,
    run16Field_iff]
  exact and_left_comm.trans (and_congr_right' and_assoc.symm)

/-- R83. -/
theorem diff8_bytes_iff (htag : t.diff8 &&& Config.mask2 = t.diff8) {dr dg db : Int} :
    b1 &&& Config.mask2 = t.diff8 ∧ decodeDiff8 b1 = .diff8 dr dg db ↔
      (Instr.diff8 dr dg db).wf = true ∧ [b1] = chunkBytes t (.diff8 dr dg db) := by
  have hbytes : chunkBytes t (.diff8 dr dg db) = encodeDiff8 t dr dg db := rfl
  rw [hbytes, encodeDiff8, List.singleton_inj, ← tag_and_field_iff mask2_leaves htag, decodeDiff8, Instr.diff8.injEq,
    unbias_eq_iff, unbias_eq_iff, unbias_eq_iff, diff8Fields_iff]
  simp only [Instr.wf, Bool.and_eq_true, Int.reducePow, Int.reduceSub]
  tauto

/-- R84. -/
theorem diff16_bytes_iff (htag : t.diff16 &&& Config.mask3 = t.diff16) {dr dg db : Int} :
    b1 &&& Config.mask3 = t.diff16 ∧ decodeDiff16 b1 b2 = .diff16 dr dg db ↔
      (Instr.diff16 dr dg db).wf = true ∧ [b1, b2] = chunkBytes t (.diff16 dr dg db) := by
  have hbytes : chunkBytes t (.diff16 dr dg db) = encodeDiff16 t dr dg db := rfl
  rw [hbytes, encodeDiff16, List.cons.injEq, List.singleton_inj, ← tag_and_field_iff mask3_leaves htag, decodeDiff16,
    Instr.diff16.injEq, unbias_eq_iff, unbias_eq_iff, unbias_eq_iff, diff16Fields_iff]
  simp only [Instr.wf, Bool.and_eq_true, Int.reducePow, Int.reduceSub]
  tauto

/-- R85. -/
theorem diff24_bytes_iff (htag : t.diff24 &&& Config.mask4 = t.diff24) {dr dg db da : Int} :
    b1 &&& Config.mask4 = t.diff24 ∧ decodeDiff24 b1 b2 b3 = .diff24 dr dg db da ↔
      (Instr.diff24 dr dg db da).wf = true ∧ [b1, b2, b3] = chunkBytes t (.diff24 dr dg db da) := by
  have hbytes : chunkBytes t (.diff24 dr dg db da) = encodeDiff24 t dr dg db da := rfl
  rw [hbytes, encodeDiff24, List.cons.injEq, List.cons.injEq, List.singleton_inj,
    ← tag_and_field_iff mask4_leaves htag, and_assoc, ← diff24Bytes_iff, diff24Fields, diff24Fields_iff, decodeDiff24,
    Instr.diff24.injEq, unbias_eq_iff, unbias_eq_iff, unbias_eq_iff, unbias_eq_iff]
  simp only [Instr.wf, Bool.and_eq_true, Int.reducePow, Int.reduceSub]
  tauto

/-- R86. -/
theorem color_bytes_iff (htag : t.color &&& Config.mask4 = t.color) {tail rest : List Byte} {r g b a : Option Byte} :
    b1 &&& Config.mask4 = t.color ∧ decodeColor b1 tail = .ok (.color r g b a, rest) ↔
      b1 :: tail = chunkBytes t (.color r g b a) ++ rest := by
  have hbytes : chunkBytes t (.color r g b a) = encodeColor t r g b a := rfl
  rw [hbytes, encodeColor, List.cons_append, List.cons.injEq, ← tag_and_field_iff mask4_leaves htag, colorFlags_iff,
    and_assoc]
  refine and_congr_right fun _ => ?_
  constructor
  · intro hd
    obtain ⟨_, _, _, _, hi, htail, hr, hg, hb, ha⟩ := decodeColor_ok hd
    cases hi
    exact ⟨⟨⟨⟨hr, hg⟩, hb⟩, ha⟩, htail⟩
  · rintro ⟨⟨⟨⟨hr, hg⟩, hb⟩, ha⟩, rfl⟩
    exact decodeColor_append b1 r g b a rest hr hg hb ha

end Rows

end Sys2Proof
end

section
/-! SUPPORT. The decoder and the encoder are inverses: O2, O3, O1. -/

namespace Sys2Proof

/-- An accepted chunk whose first byte fixes two bytes has one more before the rest. -/
theorem tail_of_opLength_two {t : Tags} {b1 : Byte} {tail rest : List Byte} {i : Instr} (hlen : opLength t b1 = 2)
    (hd : decodeChunk t (b1 :: tail) = .ok (i, rest)) : ∃ b2, tail = b2 :: rest := by
  obtain ⟨_, ops, hbs, hsize, hops, -⟩ := decodeChunk_ok hd
  cases hbs
  obtain ⟨b2, rfl⟩ : ∃ b2, ops = [b2] := List.length_eq_one_iff.1 (by omega)
  exact ⟨b2, rfl⟩

/-- An accepted chunk whose first byte fixes three bytes has two more before the rest. -/
theorem tail_of_opLength_three {t : Tags} {b1 : Byte} {tail rest : List Byte} {i : Instr} (hlen : opLength t b1 = 3)
    (hd : decodeChunk t (b1 :: tail) = .ok (i, rest)) : ∃ b2 b3, tail = b2 :: b3 :: rest := by
  obtain ⟨_, ops, hbs, hsize, hops, -⟩ := decodeChunk_ok hd
  cases hbs
  obtain ⟨b2, b3, rfl⟩ : ∃ b2 b3, ops = [b2, b3] := List.length_eq_two.1 (by omega)
  exact ⟨b2, b3, rfl⟩

/-- Whatever is decoded is encoded to the bytes it was decoded from: the row of the first byte says how. -/
theorem chunkBytes_of_decodeChunk {t : Tags} (h : t.valid) {b1 : Byte} {tail rest : List Byte} {i : Instr}
    (hd : decodeChunk t (b1 :: tail) = .ok (i, rest)) : b1 :: tail = chunkBytes t i ++ rest := by
  obtain ⟨⟨mindex, mdiff8, mrun16, mdiff16, mdiff24, mcolor⟩, -⟩ := Tags.valid_pairs h
  rcases Tags.row_of_byte h b1 with hb | hb | hb | hb | hb | hb | hb
  · rw [decodeChunk_index hb] at hd
    cases hd
    exact congrArg (· ++ _) ((index_bytes_iff mindex).1 ⟨hb, rfl⟩).2
  · rw [decodeChunk_diff8 h hb] at hd
    cases hd
    exact congrArg (· ++ _) ((diff8_bytes_iff mdiff8).1 ⟨hb, rfl⟩).2
  · rw [decodeChunk_run8 h hb] at hd
    cases hd
    exact congrArg (· ++ _) (run8_bytes_iff.1 ⟨hb, rfl⟩).2
  · obtain ⟨b2, rfl⟩ := tail_of_opLength_two (opLength_two h (.inl hb)) hd
    rw [decodeChunk_run16 h hb] at hd
    cases hd
    exact congrArg (· ++ _) ((run16_bytes_iff mrun16).1 ⟨hb, rfl⟩).2
  · obtain ⟨b2, rfl⟩ := tail_of_opLength_two (opLength_two h (.inr hb)) hd
    rw [decodeChunk_diff16 h hb] at hd
    cases hd
    exact congrArg (· ++ _) ((diff16_bytes_iff mdiff16).1 ⟨hb, rfl⟩).2
  · obtain ⟨b2, b3, rfl⟩ := tail_of_opLength_three (opLength_three h hb) hd
    rw [decodeChunk_diff24 h hb] at hd
    cases hd
    exact congrArg (· ++ _) ((diff24_bytes_iff mdiff24).1 ⟨hb, rfl⟩).2
  · rw [decodeChunk_color h hb] at hd
    obtain ⟨r, g, b, a, rfl, -⟩ := decodeColor_ok hd
    exact (color_bytes_iff mcolor).1 ⟨hb, hd⟩

/-- What is decoded, under its name as an instruction. -/
theorem decodeChunk_of_eq {t : Tags} {bs rest : List Byte} {i j : Instr} (hd : decodeChunk t bs = .ok (j, rest))
    (hi : j = i) : decodeChunk t bs = .ok (i, rest) := hi ▸ hd

/-- The row of a well-formed chunk says how its bytes are decoded. -/
theorem decodeChunk_chunkBytes {t : Tags} (h : t.valid) {i : Instr} (hwf : i.wf = true) (hchunk : i.isChunk = true)
    (rest : List Byte) : decodeChunk t (chunkBytes t i ++ rest) = .ok (i, rest) := by
  obtain ⟨⟨mindex, mdiff8, mrun16, mdiff16, mdiff24, mcolor⟩, -⟩ := Tags.valid_pairs h
  cases i with
  | index slot =>
    obtain ⟨hb, hi⟩ := (index_bytes_iff mindex).2 ⟨hwf, rfl⟩
    exact decodeChunk_of_eq (decodeChunk_index hb) hi
  | run8 n =>
    obtain ⟨hb, hi⟩ := (run8_bytes_iff (t := t)).2 ⟨hwf, rfl⟩
    exact decodeChunk_of_eq (decodeChunk_run8 h hb) hi
  | run16 n =>
    obtain ⟨hb, hi⟩ := (run16_bytes_iff mrun16).2 ⟨hwf, rfl⟩
    exact decodeChunk_of_eq (decodeChunk_run16 h hb) hi
  | diff8 dr dg db =>
    obtain ⟨hb, hi⟩ := (diff8_bytes_iff mdiff8).2 ⟨hwf, rfl⟩
    exact decodeChunk_of_eq (decodeChunk_diff8 h hb) hi
  | diff16 dr dg db =>
    obtain ⟨hb, hi⟩ := (diff16_bytes_iff mdiff16).2 ⟨hwf, rfl⟩
    exact decodeChunk_of_eq (decodeChunk_diff16 h hb) hi
  | diff24 dr dg db da =>
    obtain ⟨hb, hi⟩ := (diff24_bytes_iff mdiff24).2 ⟨hwf, rfl⟩
    exact decodeChunk_of_eq (decodeChunk_diff24 h hb) hi
  | color r g b a =>
    obtain ⟨hb, hi⟩ := (color_bytes_iff mcolor).2 rfl
    exact (decodeChunk_color h hb).trans hi
  | encodeCmd | decodeCmd => cases hchunk

/-- A chunk is written in stream bytes. -/
theorem encode_of_isChunk {t : Tags} {i : Instr} (hchunk : i.isChunk = true) :
    encode t i = .stream (chunkBytes t i) := by
  cases i with
  | encodeCmd | decodeCmd => cases hchunk
  | index | run8 | run16 | diff8 | diff16 | diff24 | color => rfl

/-- Settles O2: a chunk by its row, a command by its value. -/
theorem decodeInvertsEncode : Obligations.DecodeInvertsEncode := by
  intro t i h hwf
  refine ⟨?_, decodeChunk_chunkBytes h hwf⟩
  by_cases hchunk : i.isChunk = true
  · rw [encode_of_isChunk hchunk, decode_stream_iff]
    simpa using decodeChunk_chunkBytes h hwf hchunk []
  · cases i with
    | encodeCmd | decodeCmd => rfl
    | index | run8 | run16 | diff8 | diff16 | diff24 | color => exact absurd rfl hchunk

/-- Settles O3: the row of the first byte says which instruction the bytes are, and that it is encoded to them. -/
theorem encodeInvertsDecode : Obligations.EncodeInvertsDecode := by
  intro t bs rest i h hd
  obtain ⟨_, _, rfl, _, _, hchunk⟩ := decodeChunk_ok hd
  exact ⟨decodeChunk_wf hd, hchunk, chunkBytes_of_decodeChunk h hd⟩

/-- Settles O1, by running the decoder on each word. -/
theorem specWordsDecodeAsWritten : Obligations.SpecWordsDecodeAsWritten := by
  refine ⟨?_, ?_, ?_, ?_, ?_, ?_, ?_, ?_, ?_⟩ <;> decide

end Sys2Proof
end

section
/-! SUPPORT. The Color Cache, and the chunk of a pixel as the decoder executes it: O7, O8, O46. -/

namespace Sys2Proof.Machine

/-! The cache. -/

/-- Settles O7: the six lowest bits of a word are its remainder modulo 64. -/
theorem hashIsTheXorModulo64 : Obligations.HashIsTheXorModulo64 := fun _ => BitVec.extractLsb'_toNat ..

/-- Settles O8, from the rule of each operation. -/
theorem cacheOperationsAddressOneSlot : Obligations.CacheOperationsAddressOneSlot := by
  refine ⟨fun cache p i => ?_, fun _ _ => cacheMatch_iff, cacheLookup_clear⟩
  rw [cacheLookup_update]
  simp only [eq_comm]

/-! The chunk of a pixel. -/

/-- 42_chunk_encoder.md R161, all four channels: the deltas added to the old pixel give the new one. -/
theorem addDeltas_delta (px prev : Pixel) :
    addDeltas prev (delta px.r prev.r) (delta px.g prev.g) (delta px.b prev.b) (delta px.a prev.a) = px := by
  simp only [addDeltas, addDelta_delta]

/-- R154: the literals of the changed channels put over the old pixel give the new one. -/
theorem setLiterals_changed (px prev : Pixel) :
    setLiterals prev (changedLiteral px.r prev.r) (changedLiteral px.g prev.g) (changedLiteral px.b prev.b)
      (changedLiteral px.a prev.a) = px := by
  simp only [setLiterals, changedLiteral_getD]

/-- R161: whichever form carries the difference, the decoder that holds the old pixel records the new one. DIFF_8 and
DIFF_16 leave alpha alone, and are chosen only where its delta is 0. -/
theorem exec_diffChunk (px : Pixel) (s : State) :
    exec (diffChunk px s.px) s = .next ((s.advance (diffChunk px s.px).size).record px) := by
  have hdeltas := addDeltas_delta px s.px
  simp only [diffChunk]
  split_ifs with h8 h16 h24
  · rw [h8.1] at hdeltas
    simp only [exec, execDiff8, Instr.size, hdeltas]
  · rw [h16.1] at hdeltas
    simp only [exec, execDiff16, Instr.size, hdeltas]
  · simp only [exec, execDiff24, Instr.size, hdeltas]
  · simp only [exec, execColor, setLiterals_changed]

/-- 40_color_cache.md R117: a decoder that holds the encoder's PX and CACHE records the pixel the chunk was chosen for.
INDEX writes no slot, but the slot it names holds the pixel already (R116). -/
theorem exec_selectChunk (px : Pixel) (s : State) :
    exec (selectChunk s.cache px s.px) s = .next ((s.advance (selectChunk s.cache px s.px).size).record px) := by
  simp only [selectChunk]
  split_ifs with hmatch
  · simp only [exec, execIndex, Instr.size, State.setPx, State.record, advance_cache, cacheMatch_iff.1 hmatch,
      cacheUpdate_of_match hmatch]
  · exact exec_diffChunk px s

/-- 42_chunk_encoder.md R149: the encoder records a pixel that differs. -/
theorem selectAndEmit_cache {s : State} {px : Pixel} (h : px ≠ s.px) :
    (s.selectAndEmit px).cache = cacheUpdate s.cache px := by
  rw [selectAndEmit_eq]
  exact if_neg h

/-- Settles O46: both sides record the pixel in the same cache, and the decoder advances by the chunk's size. -/
theorem chunkReconstructsThePixel : Obligations.ChunkReconstructsThePixel := by
  intro e d px hne hpx hcache
  rw [← hpx, ← hcache]
  refine ⟨_, exec_selectChunk px d, rfl, ?_, rfl, ?_⟩
  · rw [selectAndEmit_cache hne, ← hcache]
    rfl
  · rw [chunkBytes_length]
    rfl

end Sys2Proof.Machine
end

section
/-! SUPPORT. The Header Codec, byte by byte and back: O47, O48. -/

namespace Sys2Proof.Machine

/-! The written bytes. -/

/-- 00_scope.md R12: the bytes of `be16` as numbers. -/
theorem be16_map_toNat (v : BitVec 16) :
    (be16 v).map (fun b => b.toNat) = [v.toNat / 256, v.toNat % 256] := by
  have high : v.toNat / 256 < 256 := by omega
  simp [be16, Nat.shiftRight_eq_div_pow, Nat.mod_eq_of_lt high]

/-- 00_scope.md R12: the bytes of `be32` as numbers. -/
theorem be32_map_toNat (v : BitVec 32) :
    (be32 v).map (fun b => b.toNat) =
      [v.toNat / 16777216, v.toNat / 65536 % 256, v.toNat / 256 % 256, v.toNat % 256] := by
  have high : v.toNat / 16777216 < 256 := by omega
  simp [be32, Nat.shiftRight_eq_div_pow, Nat.mod_eq_of_lt high]

/-- Settles O47, field by field. -/
theorem writeHeaderBytes : Obligations.WriteHeaderBytes := by
  intro w h l
  simp only [writeHeader, List.map_append, be16_map_toNat, be32_map_toNat]
  rfl

/-! Reading them back. -/

/-- 41_header_codec.md R127: what the checks after the magic accept, and that they answer the fields unchanged. -/
theorem checkFields_eq_ok_iff {hd hd' : Header} {len : Nat} :
    checkFields hd len = .ok hd' ↔
      hd.width ≠ 0 ∧ hd.height ≠ 0 ∧ len = hd.bodyLength.toNat + 12 ∧ hd = hd' := by
  simp only [checkFields]
  split_ifs with hzero hlen
  · exact iff_of_false nofun fun ⟨hw, hh, _⟩ => hzero.elim hw hh
  · exact iff_of_false nofun fun ⟨_, _, heq, _⟩ => hlen heq.symm
  · obtain ⟨hw, hh⟩ := not_or.1 hzero
    rw [Except.ok.injEq]
    exact ⟨fun heq => ⟨hw, hh, (not_not.1 hlen).symm, heq⟩, fun ⟨_, _, _, heq⟩ => heq⟩

/-- 41_header_codec.md R127, the first check: a header is read from at least 12 bytes. -/
theorem twelve_le_of_readHeader {src : Memory} {len : Nat} {hd : Header}
    (h : readHeader src len = some (.ok hd)) : 12 ≤ len := by
  by_contra hshort
  rw [readHeader, if_pos (Nat.lt_of_not_le hshort)] at h
  cases h

/-- 41_header_codec.md R130: a written header is read back exactly where its dimensions are legal and the length is the
one it announces. -/
theorem readHeader_written_iff {src : Memory} {hd : Header} (h : src.readBytes 0 12 = some (writeHeader hd))
    {len : Nat} : readHeader src len = some (.ok hd) ↔
      hd.width ≠ 0 ∧ hd.height ≠ 0 ∧ len = hd.bodyLength.toNat + 12 := by
  by_cases hl : 12 ≤ len
  · rw [readHeader_written h hl, Option.some.injEq, checkFields_eq_ok_iff]
    simp only [and_true]
  · exact iff_of_false (fun hr => hl (twelve_le_of_readHeader hr)) fun ⟨_, _, hlen⟩ => hl (by omega)

/-- Settles O48: both clauses are directions of `readHeader_written_iff`. -/
theorem readHeaderInvertsWriteHeader : Obligations.ReadHeaderInvertsWriteHeader := by
  intro src hd hw hh hsrc
  refine ⟨(readHeader_written_iff hsrc).2 ⟨hw, hh, rfl⟩, fun len hr => ?_⟩
  obtain ⟨-, -, hlen⟩ := (readHeader_written_iff hsrc).1 hr
  exact hlen

end Sys2Proof.Machine
end

section
/-! SUPPORT. The chunks the encoder chooses and their bytes: O40, O41, O42. -/

namespace Sys2Proof.Machine

/-! Run chunks. -/

theorem runChunk_of_le {n : Nat} (h : n ≤ 32) : runChunk n = .run8 n := if_pos h

theorem runChunk_of_gt {n : Nat} (h : 32 < n) : runChunk n = .run16 n := if_neg (Nat.not_le_of_lt h)

/-- Settles O40: the fields of RUN_8 and RUN_16 hold n - 1 and n - 33 without loss. -/
theorem runChunkBytes : Obligations.RunChunkBytes := by
  intro t n
  constructor
  · intro hlow hhigh
    have hfield : (BitVec.ofNat 5 (n - 1)).setWidth 8 = BitVec.ofNat 8 (n - 1) := by
      apply BitVec.eq_of_toNat_eq
      simp only [BitVec.toNat_setWidth, BitVec.toNat_ofNat]
      omega
    rw [runChunk_of_le hhigh]
    exact congrArg (fun field => [Config.tagRun8 ||| field]) hfield
  · intro hlow hhigh
    have hhi : ((BitVec.ofNat 13 (n - 33)).extractLsb' 8 5).setWidth 8 = BitVec.ofNat 8 ((n - 33) / 256) := by
      apply BitVec.eq_of_toNat_eq
      simp only [BitVec.toNat_setWidth, BitVec.extractLsb'_toNat, BitVec.toNat_ofNat, Nat.shiftRight_eq_div_pow]
      omega
    have hlo : (BitVec.ofNat 13 (n - 33)).extractLsb' 0 8 = BitVec.ofNat 8 ((n - 33) % 256) := by
      apply BitVec.eq_of_toNat_eq
      simp only [BitVec.extractLsb'_toNat, BitVec.toNat_ofNat, Nat.shiftRight_zero]
      omega
    rw [runChunk_of_gt hlow]
    exact congrArg₂ (fun hi lo => [t.run16 ||| hi, lo]) hhi hlo

/-! Operand ranges and fields as integers. -/

theorem diff8_wf_iff {dr dg db : Int} :
    (Instr.diff8 dr dg db).wf = true ↔ (-1 ≤ dr ∧ dr ≤ 2) ∧ (-1 ≤ dg ∧ dg ≤ 2) ∧ (-1 ≤ db ∧ db ≤ 2) := by
  simp only [Instr.wf, inRange, Bool.and_eq_true, decide_eq_true_eq, and_assoc]

theorem diff16_wf_iff {dr dg db : Int} :
    (Instr.diff16 dr dg db).wf = true ↔ (-15 ≤ dr ∧ dr ≤ 16) ∧ (-7 ≤ dg ∧ dg ≤ 8) ∧ (-7 ≤ db ∧ db ≤ 8) := by
  simp only [Instr.wf, inRange, Bool.and_eq_true, decide_eq_true_eq, and_assoc]

theorem diff24_wf_iff {dr dg db da : Int} :
    (Instr.diff24 dr dg db da).wf = true ↔
      (-15 ≤ dr ∧ dr ≤ 16) ∧ (-15 ≤ dg ∧ dg ≤ 16) ∧ (-15 ≤ db ∧ db ≤ 16) ∧ (-15 ≤ da ∧ da ≤ 16) := by
  simp only [Instr.wf, inRange, Bool.and_eq_true, decide_eq_true_eq, and_assoc]

/-- 30_encoding.md R88: a delta in range is carried by its field without loss. -/
theorem biased_toNat {w : Nat} {bias d : Int} (hlow : -bias ≤ d) (hhigh : d ≤ 2 ^ w - 1 - bias) :
    ((biased w bias d).toNat : Int) = d + bias := by
  have hfield : unbias bias (biased w bias d) = d :=
    unbias_eq_iff.2 ⟨by simp only [inRange, hlow, hhigh, decide_true, Bool.and_self], rfl⟩
  exact eq_add_of_sub_eq hfield

/-- Adjoining fields as one number. -/
theorem toNat_append_eq {p q : Nat} (hi : BitVec p) (lo : BitVec q) :
    (hi ++ lo).toNat = hi.toNat * 2 ^ q + lo.toNat := by
  rw [BitVec.toNat_append, ← Nat.shiftLeft_add_eq_or_of_lt lo.isLt, Nat.shiftLeft_eq]

/-- A word whose number is an integer is that integer as a word. -/
theorem eq_ofInt_of_toNat {w : Nat} {v : BitVec w} {x : Int} (h : (v.toNat : Int) = x) : v = BitVec.ofInt w x := by
  rw [← h, BitVec.ofInt_natCast, BitVec.ofNat_toNat, BitVec.setWidth_eq]

/-! The bytes of each delta form, its operands in range. -/

/-- R83: three fields of two bits under the tag. -/
theorem encodeDiff8_eq {t : Tags} {dr dg db : Int} (h : (Instr.diff8 dr dg db).wf = true) :
    encodeDiff8 t dr dg db = [t.diff8 ||| BitVec.ofInt 8 (16 * (dr + 1) + 4 * (dg + 1) + (db + 1))] := by
  obtain ⟨⟨hr, hr'⟩, ⟨hg, hg'⟩, hb, hb'⟩ := diff8_wf_iff.1 h
  have hred := biased_toNat (w := 2) (bias := 1) hr (by omega)
  have hgreen := biased_toNat (w := 2) (bias := 1) hg (by omega)
  have hblue := biased_toNat (w := 2) (bias := 1) hb (by omega)
  rw [encodeDiff8,
    eq_ofInt_of_toNat (v := BitVec.setWidth 8 _) (x := 16 * (dr + 1) + 4 * (dg + 1) + (db + 1))]
  rw [BitVec.toNat_setWidth, toNat_append_eq, toNat_append_eq]
  omega

/-- R84: five bits under the tag, then a byte of two fields. -/
theorem encodeDiff16_eq {t : Tags} {dr dg db : Int} (h : (Instr.diff16 dr dg db).wf = true) :
    encodeDiff16 t dr dg db =
      [t.diff16 ||| BitVec.ofInt 8 (dr + 15), BitVec.ofInt 8 (16 * (dg + 7) + (db + 7))] := by
  obtain ⟨⟨hr, hr'⟩, ⟨hg, hg'⟩, hb, hb'⟩ := diff16_wf_iff.1 h
  have hred := biased_toNat (w := 5) (bias := 15) hr (by omega)
  have hgreen := biased_toNat (w := 4) (bias := 7) hg (by omega)
  have hblue := biased_toNat (w := 4) (bias := 7) hb (by omega)
  rw [encodeDiff16, eq_ofInt_of_toNat (v := BitVec.setWidth 8 _) (x := dr + 15),
    eq_ofInt_of_toNat (v := _ ++ _) (x := 16 * (dg + 7) + (db + 7))]
  · rw [toNat_append_eq]
    omega
  · rw [BitVec.toNat_setWidth]
    omega

/-- R85: four fields of five bits, the upper four bits under the tag and the rest in two bytes. -/
theorem encodeDiff24_eq {t : Tags} {dr dg db da : Int} (h : (Instr.diff24 dr dg db da).wf = true) :
    encodeDiff24 t dr dg db da =
      [t.diff24 ||| BitVec.ofInt 8 ((dr + 15) / 2),
       BitVec.ofInt 8 (128 * ((dr + 15) % 2) + 4 * (dg + 15) + (db + 15) / 8),
       BitVec.ofInt 8 (32 * ((db + 15) % 8) + (da + 15))] := by
  obtain ⟨⟨hr, hr'⟩, ⟨hg, hg'⟩, ⟨hb, hb'⟩, ha, ha'⟩ := diff24_wf_iff.1 h
  have hred := biased_toNat (w := 5) (bias := 15) hr (by omega)
  have hgreen := biased_toNat (w := 5) (bias := 15) hg (by omega)
  have hblue := biased_toNat (w := 5) (bias := 15) hb (by omega)
  have halpha := biased_toNat (w := 5) (bias := 15) ha (by omega)
  have hfields : ((diff24Fields dr dg db da).toNat : Int) =
      32768 * (dr + 15) + 1024 * (dg + 15) + 32 * (db + 15) + (da + 15) := by
    rw [diff24Fields, toNat_append_eq, toNat_append_eq, toNat_append_eq]
    omega
  rw [encodeDiff24, eq_ofInt_of_toNat (v := BitVec.setWidth 8 _) (x := (dr + 15) / 2),
    eq_ofInt_of_toNat (v := BitVec.extractLsb' 8 8 _) (x := 128 * ((dr + 15) % 2) + 4 * (dg + 15) + (db + 15) / 8),
    eq_ofInt_of_toNat (v := BitVec.extractLsb' 0 8 _) (x := 32 * ((db + 15) % 8) + (da + 15))]
  all_goals
    simp only [BitVec.toNat_setWidth, BitVec.extractLsb'_toNat, Nat.shiftRight_eq_div_pow]
    omega

/-! COLOR. -/

/-- R86: the flags, bit by bit. -/
theorem colorFlags_setWidth (r g b a : Option Byte) :
    (colorFlags r g b a).setWidth 8 =
      BitVec.ofNat 8 ((if r.isSome then 8 else 0) + (if g.isSome then 4 else 0) + (if b.isSome then 2 else 0) +
        (if a.isSome then 1 else 0)) := by
  have hflags : ∀ r g b a : Bool,
      (BitVec.ofBool r ++ BitVec.ofBool g ++ BitVec.ofBool b ++ BitVec.ofBool a).setWidth 8 =
        BitVec.ofNat 8 ((if r then 8 else 0) + (if g then 4 else 0) + (if b then 2 else 0) + (if a then 1 else 0)) := by
    decide
  exact hflags _ _ _ _

theorem changedLiteral_isSome (new old : Byte) : (changedLiteral new old).isSome = true ↔ delta new old ≠ 0 := by
  rw [changedLiteral]
  split_ifs with h <;> simp [h]

theorem changedLiteral_toList (new old : Byte) :
    (changedLiteral new old).toList = if delta new old ≠ 0 then [new] else [] := by
  rw [changedLiteral]
  split_ifs <;> rfl

theorem changedLiteral_eq_none {new old : Byte} : changedLiteral new old = none ↔ new = old := by
  rw [← Option.not_isSome_iff_eq_none, changedLiteral_isSome, not_not, delta_eq_zero]

/-- R154: a flag and a literal for each channel whose delta is not 0. -/
theorem encodeColor_changed (t : Tags) (px prev : Pixel) :
    encodeColor t (changedLiteral px.r prev.r) (changedLiteral px.g prev.g) (changedLiteral px.b prev.b)
        (changedLiteral px.a prev.a) =
      (t.color ||| BitVec.ofNat 8
        ((if delta px.r prev.r ≠ 0 then 8 else 0) + (if delta px.g prev.g ≠ 0 then 4 else 0) +
          (if delta px.b prev.b ≠ 0 then 2 else 0) + (if delta px.a prev.a ≠ 0 then 1 else 0))) ::
        ((if delta px.r prev.r ≠ 0 then [px.r] else []) ++ (if delta px.g prev.g ≠ 0 then [px.g] else []) ++
          (if delta px.b prev.b ≠ 0 then [px.b] else []) ++ (if delta px.a prev.a ≠ 0 then [px.a] else [])) := by
  simp only [encodeColor, colorFlags_setWidth, changedLiteral_isSome, changedLiteral_toList]

/-! The chunk of a pixel that differs. -/

/-- Settles O41, test by test in the order of R148 and R151 to R154. -/
theorem selectionPriorityAndBytes : Obligations.SelectionPriorityAndBytes := by
  intro t cache px prev dr dg db da _ hr hg hb ha
  replace hr : delta px.r prev.r = dr := hr.symm
  replace hg : delta px.g prev.g = dg := hg.symm
  replace hb : delta px.b prev.b = db := hb.symm
  replace ha : delta px.a prev.a = da := ha.symm
  rw [selectChunk]
  by_cases hmatch : cache[hash px] = px
  · rw [if_pos (cacheMatch_iff.2 hmatch), if_pos hmatch]
    rfl
  rw [if_neg (fun h => hmatch (cacheMatch_iff.1 h)), if_neg hmatch]
  simp only [diffChunk, hr, hg, hb, ha, ← diff8_wf_iff, ← diff16_wf_iff, ← diff24_wf_iff]
  by_cases h8 : da = 0 ∧ (Instr.diff8 dr dg db).wf = true
  · rw [if_pos h8, if_pos h8]
    exact encodeDiff8_eq h8.2
  by_cases h16 : da = 0 ∧ (Instr.diff16 dr dg db).wf = true
  · rw [if_neg h8, if_neg h8, if_pos h16, if_pos h16]
    exact encodeDiff16_eq h16.2
  by_cases h24 : (Instr.diff24 dr dg db da).wf = true
  · rw [if_neg h8, if_neg h8, if_neg h16, if_neg h16, if_pos h24, if_pos h24]
    exact encodeDiff24_eq h24
  rw [if_neg h8, if_neg h8, if_neg h16, if_neg h16, if_neg h24, if_neg h24, ← hr, ← hg, ← hb, ← ha]
  exact encodeColor_changed t px prev

/-- 42_chunk_encoder.md R160 (b): the operands of a delta form are those its test let through. -/
theorem diffChunk_wf (px prev : Pixel) : (diffChunk px prev).wf = true := by
  simp only [diffChunk]
  split_ifs with h8 h16 h24
  · exact h8.2
  · exact h16.2
  · exact h24
  · rfl

theorem selectChunk_wf (cache : Vector Pixel 64) (px prev : Pixel) : (selectChunk cache px prev).wf = true := by
  rw [selectChunk]
  split_ifs
  · rfl
  · exact diffChunk_wf px prev

/-- R160 (b): a COLOR without flags would be the chunk of a pixel that repeats. -/
theorem diffChunk_ne_flagless {px prev : Pixel} (hne : px ≠ prev) : diffChunk px prev ≠ .color none none none none := by
  simp only [diffChunk]
  split_ifs
  · exact nofun
  · exact nofun
  · exact nofun
  · intro hnone
    simp only [Instr.color.injEq, changedLiteral_eq_none] at hnone
    obtain ⟨hr, hg, hb, ha⟩ := hnone
    cases px
    cases prev
    exact hne (Pixel.mk.injEq .. ▸ ⟨hr, hg, hb, ha⟩)

theorem selectChunk_ne_flagless (cache : Vector Pixel 64) {px prev : Pixel} (hne : px ≠ prev) :
    selectChunk cache px prev ≠ .color none none none none := by
  rw [selectChunk]
  split_ifs
  · exact nofun
  · exact diffChunk_ne_flagless hne

/-- R145, R146: a run the encoder can hold has a run chunk with its operand in range, of at most min(n, 2) bytes. -/
theorem runChunk_wf_and_size {n : Nat} (hlow : 1 ≤ n) (hhigh : n ≤ 8224) :
    (runChunk n).wf = true ∧ (runChunk n).size ≤ min n 2 := by
  rw [runChunk]
  split_ifs with h <;>
    simp only [Instr.wf, Instr.size, Config.run8Max, Config.runMax, Bool.and_eq_true, decide_eq_true_eq] at h ⊢ <;>
    omega

/-- Settles O42: the sizes are those of `size_bounds` and the run chunk, the operands those the selection tested. -/
theorem encoderEmitsWellFormedChunks : Obligations.EncoderEmitsWellFormedChunks := by
  intro t cache px prev n hne hlow hhigh
  have hchunk := selectChunk_isChunk cache px prev
  obtain ⟨hwf, hsize⟩ := runChunk_wf_and_size hlow hhigh
  obtain ⟨hone, hfive⟩ := size_bounds hchunk
  rw [chunkBytes_length, chunkBytes_length]
  exact ⟨selectChunk_wf cache px prev, hchunk, selectChunk_ne_flagless cache hne, hwf, hsize, hone, hfive⟩

end Sys2Proof.Machine
end

section
/-! SUPPORT. The START, PIXEL and FINISH steps of an encode pass: O32, O39, O43, O44, O45. -/

namespace Sys2Proof.Machine

/-! START. -/

/-- 42_chunk_encoder.md R141: with legal arguments all four checks pass. -/
theorem encodeCheck_legal {s : State} (h : EncodeArgsLegal s) :
    ∃ c, c.count = s.argChannels.toNat ∧ encodeCheck s = .ok c := by
  obtain ⟨c, hc, hcount⟩ := ofArg_legal h.channels
  have hbuffer : ¬ s.argSrcLen.toNat < s.argWidth.toNat * s.argHeight.toNat * c.count := by
    rw [hcount]
    exact Nat.not_lt_of_le h.buffer
  refine ⟨c, hcount, ?_⟩
  simp [encodeCheck, dimensionLegal_iff.2 h.width, dimensionLegal_iff.2 h.height, hc, hbuffer]

/-- 44_commands.md R220: ENCODE with legal arguments begins a pass. -/
theorem exec_encode_legal {s : State} (hb : s.status.busy = false) (h : EncodeArgsLegal s) :
    ∃ c, c.count = s.argChannels.toNat ∧ exec .encodeCmd s = .next (encodeBegin c s.accept) := by
  obtain ⟨c, hcount, hc⟩ := encodeCheck_legal h
  refine ⟨c, hcount, ?_⟩
  simp [exec, execEncode, hb, hc]

theorem toNat_setWidth_16 {v : BitVec 32} (h : v.toNat ≤ 65535) : (v.setWidth 16).toNat = v.toNat := by
  rw [BitVec.toNat_setWidth, Nat.mod_eq_of_lt (Nat.lt_succ_of_le h)]

/-- 70_reset_and_hazards.md R271: N is the product of the latched dimensions. -/
theorem encodeBegin_n {s : State} (h : EncodeArgsLegal s) (c : Channels) :
    (encodeBegin c s.accept).n.toNat = s.argWidth.toNat * s.argHeight.toNat := by
  rw [← toNat_setWidth_16 h.width.2, ← toNat_setWidth_16 h.height.2]
  exact pixelCount_toNat _ _

/-- Settles O32: the pass initialisation, then the twelve header bytes. -/
theorem encodeBeginsAPass : Obligations.EncodeBeginsAPass := by
  intro s hb h
  obtain ⟨c, hcount, he⟩ := exec_encode_legal hb h
  have hheader : ∀ a, 12 ≤ a → (encodeBegin c s.accept).dst.read a = s.dst.read a := fun a ha =>
    Memory.read_writeBytes_outside _ s.dst (.inr ha)
  exact ⟨_, he, cacheLookup_clear, rfl, rfl, rfl, rfl, toNat_setWidth_16 h.width.2, toNat_setWidth_16 h.height.2, hcount,
    encodeBegin_n h c, rfl, rfl, Memory.readBytes_writeBytes_same (writeHeader _) s.dst 0, hheader, fun _ => rfl, rfl, rfl,
    rfl, rfl, rfl, rfl, rfl, rfl, rfl⟩

/-! PIXEL. -/

/-- 42_chunk_encoder.md R142: the load undoes 20_memory.md R52, alpha being 255 with three channels. -/
theorem pixelOfBytes_pixelBytes {c : Channels} {px : Pixel} (h : c = .three → px.a = 255) :
    pixelOfBytes (pixelBytes c px) = some px := by
  cases c with
  | three =>
    obtain ⟨r, g, b, a⟩ := px
    obtain rfl : a = 255 := h rfl
    rfl
  | four => rfl

/-- R142, the load as a read of SRC. -/
theorem loadPixel_of_bytes {s : State} {px : Pixel}
    (h : s.src.readBytes s.pixelOffset s.c.count = some (pixelBytes s.c px)) (ha : s.c = .three → px.a = 255) :
    s.loadPixel = some px := by
  simp only [State.loadPixel, h]
  exact pixelOfBytes_pixelBytes ha

/-- R141: emitting twice emits the bytes one after the other, as long as CUR does not wrap. -/
theorem emit_emit {s : State} {bs : List Byte} (h : s.cur.toNat + bs.length < 2 ^ 64) (bs' : List Byte) :
    (s.emit bs).emit bs' = s.emit (bs ++ bs') := by
  have hcur : (s.emit bs).cursorOffset = s.cursorOffset + bs.length := by
    simp only [State.cursorOffset, emit_cur, BitVec.toNat_add, BitVec.toNat_ofNat]
    omega
  have hsum : s.cur + BitVec.ofNat 64 bs.length + BitVec.ofNat 64 bs'.length =
      s.cur + BitVec.ofNat 64 (bs ++ bs').length := by
    rw [List.length_append, BitVec.ofNat_add, BitVec.add_assoc]
  rw [State.emit, hcur, emit_dst, ← Memory.writeBytes_append, emit_cur, hsum]
  rfl

/-- The bytes of a PIXEL step: the run chunk that is due, then the pixel's own chunk. -/
def State.stepBytes (s : State) (px : Pixel) : List Byte := (s.countRun px).flushBytes px ++ s.selectBytes px

/-- 42_chunk_encoder.md R156: the PIXEL step as one emission, N having 32 bits. -/
theorem encodePixel_eq_emit {s : State} (hcur : s.cur.toNat ≤ 21474836480) (px : Pixel) :
    s.encodePixel px =
      { s.emit (s.stepBytes px) with
        px := px
        pos := s.pos + 1
        run := ((s.countRun px).flushRun px).run
        cache := if px = s.px then s.cache else cacheUpdate s.cache px } := by
  have hflush := (flushBytes_length (s.countRun px) px).1
  have hrun := (s.countRun px).run.isLt
  rw [encodePixel_eq, emit_emit (by omega)]
  rfl

/-- The cursor at a PIXEL or FINISH step: at most five bytes a pixel (R159). -/
theorem EncoderShape.cur_le {s : State} (h : EncoderShape s) : s.cur.toNat ≤ 21474836480 := by
  have := h.upper
  have := s.pos.isLt
  omega

/-- 40_color_cache.md R116: the slot is written where the pixel neither repeats nor matches. -/
theorem cache_after_pixel (cache : Vector Pixel 64) (px prev : Pixel) :
    (if px = prev then cache else cacheUpdate cache px) =
      if px = prev ∨ cache[hash px] = px then cache else cache.set (hash px).val px := by
  by_cases hrepeat : px = prev
  · rw [if_pos hrepeat, if_pos (.inl hrepeat)]
  · rw [if_neg hrepeat]
    by_cases hmatch : cache[hash px] = px
    · rw [if_pos (.inr hmatch), cacheUpdate_of_match (cacheMatch_iff.2 hmatch)]
    · rw [if_neg (not_or.2 ⟨hrepeat, hmatch⟩)]
      rfl

/-- Settles O39: the step is one emission at 12 + CUR. -/
theorem encoderPixelStep : Obligations.EncoderPixelStep := by
  intro s px run flush bs hinv hsilent hm hp hbytes halpha hrun hflush hbs
  have hshape := hinv.enc hm
  have hcount : (s.countRun px).run.toNat = run := (countRun_toNat hshape.run px).trans hrun.symm
  have hdue : (s.countRun px).flushDue px = flush := by
    have hzero : (s.countRun px).run ≠ 0 ↔ 0 < run := by
      rw [← hcount, Nat.pos_iff_ne_zero, ne_eq, ← BitVec.toNat_inj]
      rfl
    rw [hflush, Bool.eq_iff_iff, flushDue_iff, decide_eq_true_iff, hzero, hcount, countRun_eq]
    rfl
  have hstep : s.stepBytes px = bs := by
    rw [State.stepBytes, State.flushBytes, State.selectBytes, hdue, hcount, hbs, countRun_eq]
    rfl
  have hnext : step s = .next (s.encodePixel px) :=
    (step_silent_iff hsilent).2 (.encPixel hm hp (loadPixel_of_bytes hbytes halpha))
  have hleft : ((s.countRun px).flushRun px).run.toNat = if flush then 0 else run := by
    rw [flushRun_run, hdue, ← hcount]
    split_ifs <;> rfl
  have hoffset : s.cursorOffset = 12 + s.cur.toNat := rfl
  rw [encodePixel_eq_emit hshape.cur_le, hstep] at hnext
  refine ⟨_, hnext, hleft, fun k hk => ?_, fun a ha => ?_, cache_after_pixel s.cache px s.px, rfl⟩
  · exact (emit_read s bs _).trans (by rw [if_pos (by omega), hoffset, Nat.add_sub_cancel_left])
  · exact (emit_read s bs a).trans (if_neg (by omega))

/-! FINISH. -/

/-- 42_chunk_encoder.md R157: what closing the stream leaves at every offset of DST. -/
theorem closeStream_read (s : State) (a : Nat) :
    s.closeStream.dst.read a =
      if 8 ≤ a ∧ a < 12 then (be32 (BitVec.ofNat 32 s.bodyLength))[a - 8]?
      else if s.cursorOffset ≤ a ∧ a < s.cursorOffset + 4 then some 0
      else s.dst.read a := by
  have hpad : (s.dst.writeBytes s.cursorOffset (List.replicate Config.padLen 0)).read a =
      if s.cursorOffset ≤ a ∧ a < s.cursorOffset + 4 then some 0 else s.dst.read a := by
    rw [Memory.read_writeBytes, List.length_replicate]
    refine ite_congr rfl (fun h => ?_) (fun _ => rfl)
    exact List.getElem?_replicate_of_lt (Nat.sub_lt_left_of_lt_add h.1 h.2)
  rw [← hpad]
  exact Memory.read_writeBytes _ _ 8 a

/-- Settles O43: the stream is closed by the stores of `closeStream_read`. -/
theorem encoderFinishClosesTheStream : Obligations.EncoderFinishClosesTheStream := by
  intro s hsilent hm hp hfits
  have hoffset : s.cursorOffset = 12 + s.cur.toNat := rfl
  have hlen : (BitVec.ofNat 64 (12 + (s.cur.toNat + 4))).toNat = 12 + (s.cur.toNat + 4) := by
    rw [BitVec.toNat_ofNat]
    omega
  refine ⟨_, (step_enc_finish hsilent hm hp).trans (congrArg _ (encFinish_done (Nat.not_lt_of_le hfits))),
    fun k hk => ?_, Memory.readBytes_writeBytes_same (be32 _) _ 8, fun a ha hout => ?_, hlen, rfl⟩
  · exact (closeStream_read s _).trans (by rw [if_neg (by omega), if_pos (by omega)])
  · exact (closeStream_read s a).trans (by rw [if_neg (by omega), if_neg (by omega)])

/-- Settles O44: FINISH finds the body too long and enters the error. -/
theorem tooLongABodyRaises : Obligations.TooLongABodyRaises := by
  intro s hsilent hm hp hlong
  rw [step_enc_finish hsilent hm hp, encFinish_tooLong hlong]
  rfl

/-- R159: after the last pixel no run is pending, so the chunk region has between one and five bytes a pixel. -/
theorem EncoderShape.cur_bounds {s : State} (h : EncoderShape s) (hn : 1 ≤ s.n.toNat) (hp : s.pos = s.n) :
    1 ≤ s.cur.toNat ∧ s.cur.toNat ≤ 5 * s.n.toNat := by
  obtain ⟨-, hlast, hupper, hlower⟩ := h
  rw [hlast hp, hp] at hupper hlower
  exact ⟨hlower hn, hupper⟩

/-- Settles O45: the bounds of the chunk region carry over to the stream that a FINISH without an error closes. -/
theorem encodedSizeIsBounded : Obligations.EncodedSizeIsBounded := by
  intro s hinv hsilent hm hp
  have hpass := hinv.pass (.inl hm)
  have hn : 1 ≤ s.n.toNat := by
    rw [hpass.count]
    exact Nat.mul_pos hpass.width hpass.height
  obtain ⟨hlow, hhigh⟩ := (hinv.enc hm).cur_bounds hn hp
  refine ⟨hlow, hhigh, fun hlong => by omega, fun t ht hdone => ?_⟩
  by_cases hfits : s.cur.toNat + 4 ≤ 4294967295
  · obtain ⟨u, hu, -, -, -, hlen, -⟩ := encoderFinishClosesTheStream s hsilent hm hp hfits
    obtain rfl := Host.Outcome.next.inj (hu.symm.trans ht)
    omega
  · obtain rfl := Host.Outcome.next.inj ((tooLongABodyRaises s hsilent hm hp (by omega)).symm.trans ht)
    cases hdone

end Sys2Proof.Machine
end

section
/-! SUPPORT. The run of an ENCODE from its command to its end: O58. -/

namespace Sys2Proof.Machine

/-! Runs. -/

/-- A run takes its first step, then the rest. -/
theorem runSteps_next_iff {k : Nat} {s t : State} :
    runSteps (k + 1) s = .next t ↔ ∃ u, step s = .next u ∧ runSteps k u = .next t := by
  have hcore : Sys2Proof.core.step s = step s := rfl
  simp only [runSteps, Host.Core.run, hcore]
  cases step s <;> simp

/-- A run takes one step more from where it stands. -/
theorem runSteps_next_step {k : Nat} {s t u : State} (hrun : runSteps k s = .next t) (hstep : step t = .next u) :
    runSteps (k + 1) s = .next u := by
  induction k generalizing s with
  | zero =>
    cases hrun
    exact runSteps_next_iff.2 ⟨u, hstep, rfl⟩
  | succ k ih =>
    obtain ⟨v, hv, hrest⟩ := runSteps_next_iff.1 hrun
    exact runSteps_next_iff.2 ⟨v, hv, ih hrest⟩

/-- 10_state.md R28: while BUSY the host reads that alone. -/
theorem viewAfter_busy {k : Nat} {s t : State} (hrun : runSteps k s = .next t) (hb : t.status.busy = true) :
    viewAfter k s = some .busy := by
  rw [viewAfter, hrun]
  exact congrArg some (if_pos hb)

/-! The bytes written. -/

/-- A store leaves a value where it stored one or there was one before. -/
theorem Memory.isSome_read_writeBytes {m : Memory} {vs : List Byte} {x y : Nat}
    (h : (x ≤ y ∧ y < x + vs.length) ∨ (m.read y).isSome = true) : ((m.writeBytes x vs).read y).isSome = true := by
  rw [Memory.read_writeBytes]
  split_ifs with hinside
  · rw [List.getElem?_eq_getElem (by omega)]
    rfl
  · exact h.resolve_left hinside

/-- The stream is written without a gap up to the cursor: the header and the chunks emitted so far. -/
def State.WrittenToCursor (s : State) : Prop := ∀ a, a < s.cursorOffset → (s.dst.read a).isSome = true

theorem State.WrittenToCursor.emit {s : State} (h : s.WrittenToCursor) (bs : List Byte) :
    (s.emit bs).WrittenToCursor := by
  intro a ha
  have hcursor : (s.emit bs).cursorOffset ≤ s.cursorOffset + bs.length := by
    simp only [State.cursorOffset, emit_cur, BitVec.toNat_add, BitVec.toNat_ofNat]
    omega
  by_cases hbefore : a < s.cursorOffset
  · exact Memory.isSome_read_writeBytes (.inr (h a hbefore))
  · exact Memory.isSome_read_writeBytes (.inl (by omega))

/-- 42_chunk_encoder.md R157: the padding and the length patch leave no gap either. -/
theorem State.WrittenToCursor.closeStream {s : State} (h : s.WrittenToCursor) {a : Nat} (ha : a < s.cursorOffset + 4) :
    (s.closeStream.dst.read a).isSome = true := by
  refine Memory.isSome_read_writeBytes (.inr (Memory.isSome_read_writeBytes ?_))
  by_cases hbefore : a < s.cursorOffset
  · exact .inr (h a hbefore)
  · exact .inl ⟨Nat.le_of_not_lt hbefore, ha⟩

/-! The pass. -/

/-- 42_chunk_encoder.md R156: `t` stands in the encode pass that the command at `s` began, with `k` pixels encoded. -/
structure EncodePass (s : State) (k : Nat) (t : State) : Prop where
  silent   : t.inbox = []
  mode     : t.mode = .enc
  busy     : t.status.busy = true
  count    : t.n.toNat = s.argWidth.toNat * s.argHeight.toNat
  channels : t.c.count = s.argChannels.toNat
  src      : t.src = s.src
  index    : t.pos.toNat = k
  shape    : EncoderShape t
  written  : t.WrittenToCursor

/-- The START step begins the pass, with the header written and no pixel encoded. -/
theorem EncodePass.begin {s : State} (hcmd : s.inbox = [.writeCmd 1]) (hb : s.status.busy = false)
    (h : EncodeArgsLegal s) : ∃ t, step s = .next t ∧ EncodePass s 0 t := by
  have hlegal : EncodeArgsLegal { s with inbox := [] } := ⟨h.width, h.height, h.channels, h.buffer⟩
  obtain ⟨c, hcount, he⟩ := exec_encode_legal (s := { s with inbox := [] }) hb hlegal
  refine ⟨_, (step_encode hcmd).trans he, ?_⟩
  exact {
    silent := rfl
    mode := rfl
    busy := rfl
    count := encodeBegin_n hlegal c
    channels := hcount
    src := rfl
    index := rfl
    shape := ⟨Nat.zero_le _, fun _ => rfl, Nat.le_refl _, nofun⟩
    written := fun _ ha => Memory.isSome_read_writeBytes (.inl ⟨Nat.zero_le _, ha⟩) }

/-- While a pixel is left the PIXEL step finds it in SRC and encodes it. -/
theorem EncodePass.pixel {s t : State} {k : Nat} (h : EncodePass s k t)
    (hk : k < s.argWidth.toNat * s.argHeight.toNat)
    (hfilled : SrcFilled s (s.argWidth.toNat * s.argHeight.toNat * s.argChannels.toNat)) :
    ∃ u, step t = .next u ∧ EncodePass s (k + 1) u := by
  have hp : t.pos < t.n := by
    rw [BitVec.lt_def, h.index, h.count]
    exact hk
  have hinside : (k + 1) * s.argChannels.toNat ≤ s.argWidth.toNat * s.argHeight.toNat * s.argChannels.toNat :=
    Nat.mul_le_mul_right _ hk
  obtain ⟨px, hl⟩ := loadPixel_isSome (s := t) fun j hj => by
    rw [State.pixelOffset, h.src, h.index, h.channels]
    rw [h.channels] at hj
    rw [Nat.succ_mul] at hinside
    exact hfilled _ (by omega)
  refine ⟨_, (step_silent_iff h.silent).2 (.encPixel h.mode hp hl), ?_⟩
  have hshape := h.shape.encodePixel hp px
  rw [encodePixel_eq_emit h.shape.cur_le] at hshape ⊢
  exact {
    silent := h.silent
    mode := h.mode
    busy := h.busy
    count := h.count
    channels := h.channels
    src := h.src
    index := (toNat_add_one_of_lt hp).trans (congrArg (· + 1) h.index)
    shape := hshape
    written := h.written.emit _ }

/-- After k + 1 steps the command is taken and k pixels are encoded. -/
theorem EncodePass.after {s : State} (hcmd : s.inbox = [.writeCmd 1]) (hb : s.status.busy = false)
    (h : EncodeArgsLegal s)
    (hfilled : SrcFilled s (s.argWidth.toNat * s.argHeight.toNat * s.argChannels.toNat)) {k : Nat}
    (hk : k ≤ s.argWidth.toNat * s.argHeight.toNat) : ∃ t, runSteps (k + 1) s = .next t ∧ EncodePass s k t := by
  induction k with
  | zero =>
    obtain ⟨t, ht, hpass⟩ := EncodePass.begin hcmd hb h
    exact ⟨t, runSteps_next_iff.2 ⟨t, ht, rfl⟩, hpass⟩
  | succ k ih =>
    obtain ⟨t, hrun, hpass⟩ := ih (Nat.le_of_succ_le hk)
    obtain ⟨u, hu, hpass'⟩ := hpass.pixel hk hfilled
    exact ⟨u, runSteps_next_step hrun hu, hpass'⟩

/-- 42_chunk_encoder.md R157, R158: with all pixels encoded FINISH closes a stream without a gap, or the body is too long,
which takes more pixels than a fifth of the longest body. -/
theorem EncodePass.finish {s t : State} (h : EncodePass s (s.argWidth.toNat * s.argHeight.toNat) t) :
    ∃ u, step t = .next u ∧
      (u.mode = .done ∧ (∀ a, a < u.resLen.toNat → (u.dst.read a).isSome = true) ∨
        u.mode = .error ∧ u.errClass = 1 ∧ u.errCause = 5 ∧
          858993458 < s.argWidth.toNat * s.argHeight.toNat) := by
  have hp : t.pos = t.n := BitVec.eq_of_toNat_eq (h.index.trans h.count.symm)
  refine ⟨_, step_enc_finish h.silent h.mode hp, ?_⟩
  by_cases hlong : Config.bodyMax < t.bodyLength
  · rw [encFinish_tooLong hlong]
    have hbody : 4294967295 < t.cur.toNat + 4 := hlong
    have hupper := h.shape.upper
    rw [h.index] at hupper
    exact .inr ⟨rfl, rfl, rfl, by omega⟩
  · rw [encFinish_done hlong]
    refine .inl ⟨rfl, fun a ha => h.written.closeStream ?_⟩
    exact Nat.lt_of_lt_of_le ha (by rw [BitVec.toNat_ofNat]; exact Nat.mod_le _ _)

/-- Settles O58: START, N PIXEL steps by `EncodePass.after`, and FINISH. -/
theorem everyEncodeTerminates : Obligations.EveryEncodeTerminates := by
  intro s hcmd hb h hfilled
  obtain ⟨t, hrun, hpass⟩ := EncodePass.after hcmd hb h hfilled (Nat.le_refl _)
  obtain ⟨u, hu, hend⟩ := hpass.finish
  refine ⟨u, runSteps_next_step hrun hu, fun k hk => ?_, hend⟩
  obtain ⟨v, hv, hpass'⟩ := EncodePass.after hcmd hb h hfilled hk
  exact viewAfter_busy hv hpass'.busy

end Sys2Proof.Machine
end

section
/-! SUPPORT. The seven opcodes executed: O9 to O15. -/

namespace Sys2Proof.Machine

/-! What each opcode answers, in the operations of the state. -/

section Exec
variable (s : State)

theorem exec_index (slot : Fin 64) :
    exec (.index slot) s = .next ((s.advance 1).setPx (cacheLookup s.cache slot)) := rfl

theorem exec_run8 (n : Nat) : exec (.run8 n) s = .next ((s.advance 1).setRun (BitVec.ofNat 14 (n - 1))) := rfl

theorem exec_run16 (n : Nat) : exec (.run16 n) s = .next ((s.advance 2).setRun (BitVec.ofNat 14 (n - 33 + 32))) := rfl

theorem exec_diff8 (dr dg db : Int) :
    exec (.diff8 dr dg db) s = .next ((s.advance 1).record (addDeltas s.px dr dg db 0)) := rfl

theorem exec_diff16 (dr dg db : Int) :
    exec (.diff16 dr dg db) s = .next ((s.advance 2).record (addDeltas s.px dr dg db 0)) := rfl

theorem exec_diff24 (dr dg db da : Int) :
    exec (.diff24 dr dg db da) s = .next ((s.advance 3).record (addDeltas s.px dr dg db da)) := rfl

theorem exec_color (r g b a : Option Byte) :
    exec (.color r g b a) s = .next ((s.advance (Instr.color r g b a).size).record (setLiterals s.px r g b a)) := rfl

end Exec

/-! The two runs. -/

/-- Settles O9: the load and the advance are the whole of INDEX. -/
theorem indexLoadsTheSlot : Obligations.IndexLoadsTheSlot := fun slot s => exec_index s slot

/-- Settles O10: a run a RUN_8 covers fits RUN. -/
theorem run8LoadsTheRun : Obligations.Run8LoadsTheRun := by
  intro n s _ hhigh
  exact ⟨_, exec_run8 s n, (BitVec.toNat_ofNat _ _).trans (Nat.mod_eq_of_lt (by omega)), rfl⟩

/-- Settles O11: a run a RUN_16 covers fits RUN. -/
theorem run16LoadsTheRun : Obligations.Run16LoadsTheRun := by
  intro n s _ hhigh
  exact ⟨_, exec_run16 s n, (BitVec.toNat_ofNat _ _).trans (Nat.mod_eq_of_lt (by omega)), rfl⟩

/-! Deltas and literals. -/

/-- 43_chunk_decoder.md R188: the new channel is the sum modulo 256. -/
theorem addDelta_toNat (old : Byte) (d : Int) : ((addDelta old d).toNat : Int) = ((old.toNat : Int) + d) % 256 := by
  rw [addDelta, wrap8, BitVec.toNat_ofInt]
  omega

/-- Settles O12: `addDelta_toNat` on three channels, and a delta of 0 on alpha. -/
theorem diff8AddsWithWraparound : Obligations.Diff8AddsWithWraparound := by
  intro dr dg db s
  exact ⟨_, exec_diff8 s dr dg db, addDelta_toNat _ dr, addDelta_toNat _ dg, addDelta_toNat _ db, addDelta_zero _, rfl⟩

/-- Settles O13, as O12. -/
theorem diff16AddsWithWraparound : Obligations.Diff16AddsWithWraparound := by
  intro dr dg db s
  exact ⟨_, exec_diff16 s dr dg db, addDelta_toNat _ dr, addDelta_toNat _ dg, addDelta_toNat _ db, addDelta_zero _, rfl⟩

/-- Settles O14: `addDelta_toNat` on all four channels. -/
theorem diff24AddsWithWraparound : Obligations.Diff24AddsWithWraparound := by
  intro dr dg db da s
  exact ⟨_, exec_diff24 s dr dg db da, addDelta_toNat _ dr, addDelta_toNat _ dg, addDelta_toNat _ db,
    addDelta_toNat _ da, rfl⟩

/-- 30_encoding.md R87: the size of a COLOR, flag by flag. -/
theorem color_size (r g b a : Option Byte) :
    (Instr.color r g b a).size = 1 + r.isSome.toNat + g.isSome.toNat + b.isSome.toNat + a.isSome.toNat := by
  simp only [Instr.size, toList_length, Nat.add_assoc]

/-- Settles O15: CUR advances by `color_size`. -/
theorem colorReplacesTheFlaggedChannels : Obligations.ColorReplacesTheFlaggedChannels := by
  intro r g b a s
  exact ⟨_, exec_color s r g b a, rfl, congrArg (s.cur + BitVec.ofNat 64 ·) (color_size r g b a), rfl⟩

end Sys2Proof.Machine
end

section
/-! SUPPORT. The fetch of a chunk, and the START, PIXEL and FINISH steps of a decode pass: O24, O34, O26 to O28, O29,
O30. -/

namespace Sys2Proof

/-- 30_encoding.md R87, R91: the bytes the opcode byte asks for are enough, for any tags. -/
theorem decodeChunk_of_opLength_le {t : Tags} {b1 : Byte} {tail : List Byte} (h : opLength t b1 ≤ tail.length + 1) :
    ∃ i rest, decodeChunk t (b1 :: tail) = .ok (i, rest) := by
  simp only [opLength] at h
  simp only [decodeChunk]
  split_ifs with hindex hdiff8 hrun8 hrun16 hdiff16 hdiff24
  · exact ⟨_, _, rfl⟩
  · exact ⟨_, _, rfl⟩
  · exact ⟨_, _, rfl⟩
  · rw [if_neg (by tauto), if_pos (.inl hrun16)] at h
    match tail, h with
    | b2 :: rest, _ => exact ⟨_, rest, rfl⟩
  · rw [if_neg (by tauto), if_pos (.inr hdiff16)] at h
    match tail, h with
    | b2 :: rest, _ => exact ⟨_, rest, rfl⟩
  · rw [if_neg (by tauto), if_neg (by tauto), if_pos hdiff24] at h
    match tail, h with
    | b2 :: b3 :: rest, _ => exact ⟨_, rest, rfl⟩
  · rw [if_neg (by tauto), if_neg (by tauto), if_neg hdiff24] at h
    exact decodeColor_total (by omega)

/-- R87: a chunk has its opcode byte at least. -/
theorem opLength_pos (t : Tags) (b1 : Byte) : 0 < opLength t b1 := by
  simp only [opLength]
  split_ifs <;> omega

end Sys2Proof

namespace Sys2Proof.Machine

/-! The fetch. -/

/-- 43_chunk_decoder.md R184: the instruction fetched is the one the fetched bytes decode to. -/
theorem fetchChunk_of_decodeChunk {s : State} {bs rest : List Byte} {i : Instr} (hf : s.fetchBytes = some bs)
    (hd : decodeChunk s.cfg.tags bs = .ok (i, rest)) : s.fetchChunk = some i := by
  simp only [State.fetchChunk, hf, hd]

/-- Five bytes at the cursor are enough for any chunk. -/
theorem fetchChunk_isSome {s : State} (h : ∀ k, k < 5 → (s.src.read (s.cursorOffset + k)).isSome = true) :
    ∃ i, s.fetchChunk = some i := by
  obtain ⟨b1, hb1⟩ := Option.isSome_iff_exists.1 (h 0 (by omega))
  rw [Nat.add_zero] at hb1
  obtain ⟨bs, hbs⟩ := Memory.readBytes_isSome (n := opLength s.cfg.tags b1) fun k hk =>
    h k (Nat.lt_of_lt_of_le hk (opLength_le _ _))
  obtain ⟨hlen, hread⟩ := Memory.readBytes_eq_some.1 hbs
  have hfirst := hread 0 (opLength_pos _ _)
  rw [Nat.add_zero, hb1, eq_comm, ← List.head?_eq_getElem?, List.head?_eq_some_iff] at hfirst
  obtain ⟨tail, rfl⟩ := hfirst
  obtain ⟨i, rest, hd⟩ := decodeChunk_of_opLength_le (t := s.cfg.tags) (b1 := b1) (tail := tail) hlen.ge
  exact ⟨i, fetchChunk_of_decodeChunk (fetchBytes_eq_some.2 ⟨b1, hb1, hbs⟩) hd⟩

/-- R184: of bytes at the cursor that are one chunk and no more, the fetch is that chunk. -/
theorem AtChunk.fetchChunk {s : State} {bs : List Byte} {i : Instr} (h : AtChunk s bs)
    (hd : decodeChunk s.cfg.tags bs = .ok (i, [])) : s.fetchChunk = some i := by
  obtain ⟨b1, ops, rfl, hsize, hops, -⟩ := decodeChunk_ok hd
  have hbytes := h.bytes
  obtain ⟨-, hread⟩ := Memory.readBytes_eq_some.1 hbytes
  have hlen : (b1 :: (ops ++ [])).length = opLength s.cfg.tags b1 := by
    rw [List.append_nil, List.length_cons, hops, hsize]
  rw [hlen] at hbytes
  exact fetchChunk_of_decodeChunk (fetchBytes_eq_some.2 ⟨b1, hread 0 (Nat.succ_pos _), hbytes⟩) hd

/-- 43_chunk_decoder.md R182: the PIXEL step of a chunk, from its bytes. -/
theorem AtChunk.step_eq {s t : State} {bs : List Byte} {i : Instr} (h : AtChunk s bs)
    (hd : decodeChunk s.cfg.tags bs = .ok (i, [])) (he : exec i s = .next t) : step s = .next t.storePixel := by
  rw [step_dec_chunk h.silent h.mode h.pixel h.noRun h.inside (h.fetchChunk hd), he]
  rfl

/-- Settles O24: what decodes is a chunk, and a chunk always completes. -/
theorem stepRunsTheDecodedChunk : Obligations.StepRunsTheDecodedChunk := by
  intro s bs i h hdecode
  have hd := decode_stream_iff.1 hdecode
  obtain ⟨_, _, -, -, -, hchunk⟩ := decodeChunk_ok hd
  obtain ⟨_, _, _, he, -⟩ := exec_chunk hchunk s
  exact ⟨_, he, h.step_eq hd he⟩

/-! START. -/

/-- 43_chunk_decoder.md R181: with a legal channel count and header all checks pass. -/
theorem decodeCheck_legal {s : State} {hd : Header} (h : DecodeArgsLegal s hd) :
    ∃ c, c.count = s.argChannels.toNat ∧ decodeCheck s = some (.ok (c, hd)) := by
  obtain ⟨c, hc, hcount⟩ := ofArg_legal h.channels
  have hread := (readHeader_written_iff h.header).2 ⟨h.width, h.height, h.length.symm⟩
  exact ⟨c, hcount, by simp only [decodeCheck, hc, hread]⟩

/-- 44_commands.md R221: DECODE of a stream with a legal header begins a pass. -/
theorem exec_decode_legal {s : State} {hd : Header} (hb : s.status.busy = false) (h : DecodeArgsLegal s hd) :
    ∃ c, c.count = s.argChannels.toNat ∧ exec .decodeCmd s = .next (decodeBegin c hd s.accept) := by
  obtain ⟨c, hcount, hc⟩ := decodeCheck_legal h
  exact ⟨c, hcount, by simp [exec, execDecode, hb, hc]⟩

/-- 43_chunk_decoder.md R198. -/
theorem chunkDataLength_toNat (v : BitVec 32) : (chunkDataLength v).toNat = v.toNat - 4 := by
  have := v.isLt
  simp only [chunkDataLength, Config.padLen, BitVec.toNat_ofNat]
  omega

/-- 20_memory.md R60: a chunk region that is not empty ends, with its padding, where the stream does. -/
theorem chunkDataLength_region {v : BitVec 32} {len : Nat} (hlen : v.toNat + 12 = len) (hne : chunkDataLength v ≠ 0) :
    12 + (chunkDataLength v).toNat + 4 = len := by
  have := one_le_toNat hne
  have := chunkDataLength_toNat v
  omega

/-- Settles O34: the pass initialisation, then CDL. -/
theorem decodeBeginsAPass : Obligations.DecodeBeginsAPass := by
  intro s hd hb h
  obtain ⟨c, hcount, he⟩ := exec_decode_legal hb h
  exact ⟨_, he, cacheLookup_clear, rfl, rfl, rfl, rfl, rfl, rfl, hcount, pixelCount_toNat hd.width hd.height,
    chunkDataLength_toNat hd.bodyLength, chunkDataLength_region h.length, rfl, rfl, fun _ => rfl, fun _ => rfl, rfl,
    rfl, rfl, rfl, rfl, rfl, rfl, rfl⟩

/-! PIXEL, where no chunk is fetched. -/

/-- Settles O26: RUN is not 0, so the decrement does not wrap. -/
theorem runHoldRepeatsThePixel : Obligations.RunHoldRepeatsThePixel := by
  intro s hsilent hm hp hr
  have hrun : (s.run - 1).toNat + 1 = s.run.toNat := by
    have := one_le_toNat hr
    bv_omega
  exact ⟨_, step_dec_hold hsilent hm hp hr, hrun, rfl⟩

/-- Settles O27: past the chunk region the step takes the exhausted path, which is lenient. -/
theorem exhaustedPathReusesThePixel : Obligations.ExhaustedPathReusesThePixel := by
  intro s hsilent hm hp hr hc hs
  rw [step_dec_exhausted hsilent hm hp hr (BitVec.not_lt.2 hc), exhausted_lenient (ne_true_of_eq_false hs)]
  rfl

/-- Settles O28: past the chunk region the step takes the exhausted path, which is strict. -/
theorem strictTruncationRaises : Obligations.StrictTruncationRaises := by
  intro s hsilent hm hp hr hc hs
  rw [step_dec_exhausted hsilent hm hp hr (BitVec.not_lt.2 hc), exhausted_strict hs]
  rfl

/-- Settles O29: the store is one of C consecutive bytes at POS × C. -/
theorem pixelStoreWritesOnlyItsPixel : Obligations.PixelStoreWritesOnlyItsPixel := by
  intro s
  have hinside : ∀ k, k < s.c.count →
      s.storePixel.dst.read (s.pos.toNat * s.c.count + k) = (pixelBytes s.c s.px)[k]? := fun k hk => by
    rw [storePixel_read, State.pixelOffset, if_pos (by omega), Nat.add_sub_cancel_left]
  have hcount := (count_bounds s.c).1
  refine ⟨?_, ?_, ?_, fun hfour => ?_, fun a ha => ?_, rfl⟩
  · rw [← Nat.add_zero (_ * _), hinside 0 (by omega)]
    cases s.c <;> rfl
  · rw [hinside 1 (by omega)]
    cases s.c <;> rfl
  · rw [hinside 2 (by omega)]
    cases s.c <;> rfl
  · rw [hinside 3 (by rw [hfour]; decide), hfour]
    rfl
  · rw [storePixel_read, State.pixelOffset, if_neg (by omega)]

/-! FINISH. -/

/-- 20_memory.md R52: the length of the image does not wrap. -/
theorem decFinish_resLen (s : State) : (decFinish s).resLen.toNat = s.n.toNat * s.c.count := by
  have hn := s.n.isLt
  have hlen : s.n.toNat * s.c.count ≤ s.n.toNat * 4 := Nat.mul_le_mul_left _ (count_bounds s.c).2
  rw [decFinish, BitVec.toNat_ofNat, Nat.mod_eq_of_lt (by omega)]

/-- Settles O30: at POS = N the step is FINISH, without a test of RUN or CUR. -/
theorem decoderFinishReportsTheImage : Obligations.DecoderFinishReportsTheImage := by
  intro s hsilent hm hp
  exact ⟨_, step_dec_finish hsilent hm hp, decFinish_resLen s, rfl⟩

end Sys2Proof.Machine
end

section
/-! SUPPORT. A decoder PIXEL step from the bytes at the cursor, the fields of a chunk taken as masks and shifts of its
bytes: O17 to O23. -/

namespace Sys2Proof

/-! Fields as masks and shifts. -/

section Fields
variable {start len : Nat} {mask : Byte}

/-- A field is what a shift and a mask of its width leave. -/
theorem setWidth_extractLsb'_eq_and (hmask : mask.toNat = 2 ^ len - 1) (x : Byte) :
    (x.extractLsb' start len).setWidth 8 = (x >>> start) &&& mask := by
  have hlt : (x.toNat >>> start) % 2 ^ len < 2 ^ 8 :=
    Nat.lt_of_le_of_lt (Nat.le_trans (Nat.mod_le _ _) (Nat.shiftRight_le _ _)) x.isLt
  apply BitVec.eq_of_toNat_eq
  rw [BitVec.toNat_setWidth, BitVec.extractLsb'_toNat, Nat.mod_eq_of_lt hlt, BitVec.toNat_and, hmask,
    Nat.and_two_pow_sub_one_eq_mod, BitVec.toNat_ushiftRight]

/-- The lowest field needs no shift. -/
theorem setWidth_extractLsb'_low (hmask : mask.toNat = 2 ^ len - 1) (x : Byte) :
    (x.extractLsb' 0 len).setWidth 8 = x &&& mask := by
  rw [setWidth_extractLsb'_eq_and hmask, BitVec.ushiftRight_zero]

/-- The highest field needs no mask. -/
theorem setWidth_extractLsb'_high (h : start + len = 8) (x : Byte) :
    (x.extractLsb' start len).setWidth 8 = x >>> start := by
  have hlt : x.toNat >>> start < 2 ^ len := by
    rw [Nat.shiftRight_eq_div_pow, Nat.div_lt_iff_lt_mul (Nat.two_pow_pos _), ← Nat.pow_add, Nat.add_comm len, h]
    exact x.isLt
  apply BitVec.eq_of_toNat_eq
  rw [BitVec.toNat_setWidth_of_le (by omega), BitVec.extractLsb'_toNat, Nat.mod_eq_of_lt hlt, BitVec.toNat_ushiftRight]

/-- A field that spans two words is the low bits of the high word and the high bits of the low word. -/
theorem extractLsb'_append_span {m n p q : Nat} (x : BitVec m) (y : BitVec n) (h : start + q = n) :
    (x ++ y).extractLsb' start (p + q) = x.extractLsb' 0 p ++ y.extractLsb' start q := by
  rw [extractLsb'_eq_append_iff, BitVec.extractLsb'_append_eq_of_le h.ge,
    BitVec.extractLsb'_append_eq_of_add_le h.le, h, Nat.sub_self]
  exact ⟨rfl, rfl⟩

end Fields

/-! The four fields of a DIFF_24 (30_encoding.md R85), by the bytes that hold them. -/

section Diff24
variable (b1 b2 b3 : Byte)

theorem diff24_red : ((b1 ++ b2 ++ b3).extractLsb' 15 5).setWidth 8 = ((b1 &&& 0x0F) <<< 1) ||| (b2 >>> 7) := by
  have hspan : (b1 ++ b2).extractLsb' 7 5 = b1.extractLsb' 0 4 ++ b2.extractLsb' 7 1 :=
    extractLsb'_append_span b1 b2 (p := 4) (q := 1) rfl
  rw [BitVec.extractLsb'_append_eq_of_le (by decide), hspan, BitVec.setWidth_append_eq_shiftLeft_setWidth_or,
    setWidth_extractLsb'_low (mask := 0x0F) rfl, setWidth_extractLsb'_high rfl]

theorem diff24_green : ((b1 ++ b2 ++ b3).extractLsb' 10 5).setWidth 8 = (b2 >>> 2) &&& 0x1F := by
  rw [BitVec.extractLsb'_append_eq_of_le (by decide), BitVec.extractLsb'_append_eq_of_add_le (by decide),
    setWidth_extractLsb'_eq_and (mask := 0x1F) rfl]

theorem diff24_blue : ((b1 ++ b2 ++ b3).extractLsb' 5 5).setWidth 8 = ((b2 &&& 0x03) <<< 3) ||| (b3 >>> 5) := by
  have hspan : (b1 ++ b2 ++ b3).extractLsb' 5 5 = (b1 ++ b2).extractLsb' 0 2 ++ b3.extractLsb' 5 3 :=
    extractLsb'_append_span (b1 ++ b2) b3 (p := 2) (q := 3) rfl
  rw [hspan, BitVec.extractLsb'_append_eq_of_add_le (by decide), BitVec.setWidth_append_eq_shiftLeft_setWidth_or,
    setWidth_extractLsb'_low (mask := 0x03) rfl, setWidth_extractLsb'_high rfl]

theorem diff24_alpha : ((b1 ++ b2 ++ b3).extractLsb' 0 5).setWidth 8 = b3 &&& 0x1F := by
  rw [BitVec.extractLsb'_append_eq_of_add_le (by decide), setWidth_extractLsb'_low (mask := 0x1F) rfl]

end Diff24

end Sys2Proof

namespace Sys2Proof.Machine

/-! INDEX and the runs. -/

/-- Settles O17: the slot is the field under the tag. -/
theorem stepOnAnIndexByte : Obligations.StepOnAnIndexByte := by
  intro s b1 slot _ h hb hslot
  have hfield : (b1.extractLsb' 0 6).toFin = slot := by
    apply Fin.ext
    rw [hslot, ← setWidth_extractLsb'_low (len := 6) rfl, BitVec.toNat_setWidth_of_le (by decide)]
    rfl
  exact h.step_eq (decodeChunk_index hb) (hfield ▸ exec_index s slot)

/-- Settles O18: the field is loaded as it is. -/
theorem stepOnARun8Byte : Obligations.StepOnARun8Byte := by
  intro s b1 hvalid h hb
  have hrun : BitVec.ofNat 14 ((b1.extractLsb' 0 5).toNat + 1 - 1) = (b1 &&& 0x1F).setWidth 14 := by
    rw [← setWidth_extractLsb'_low (len := 5) rfl, BitVec.setWidth_setWidth (by decide), Nat.add_sub_cancel,
      BitVec.ofNat_toNat]
  rw [← hrun]
  exact h.step_eq (decodeChunk_run8 hvalid hb) (exec_run8 s _)

/-- Settles O19: the field spans both bytes, and 32 is added. -/
theorem stepOnARun16Chunk : Obligations.StepOnARun16Chunk := by
  intro s b1 b2 hvalid h hb
  have hrun : BitVec.ofNat 14 ((b1.extractLsb' 0 5 ++ b2).toNat + 33 - 33 + 32) =
      (((b1 &&& 0x1F).setWidth 14 <<< 8) ||| b2.setWidth 14) + 32 := by
    rw [← setWidth_extractLsb'_low (len := 5) rfl, BitVec.setWidth_setWidth (by decide),
      ← BitVec.setWidth_append_eq_shiftLeft_setWidth_or, Nat.add_sub_cancel, BitVec.ofNat_add, BitVec.ofNat_toNat]
    rfl
  rw [← hrun]
  exact h.step_eq (decodeChunk_run16 hvalid hb) (exec_run16 s _)

/-! Deltas. -/

/-- 43_chunk_decoder.md R188: the delta of a biased field is added as a byte, less the bias. -/
theorem addDelta_unbias {w : Nat} (old : Byte) (bias : Int) (field : BitVec w) :
    addDelta old (unbias bias field) = old + field.setWidth 8 - BitVec.ofInt 8 bias := by
  rw [addDelta, wrap8, unbias, sub_eq_add_neg, ← add_assoc, BitVec.ofInt_add, BitVec.ofInt_add, BitVec.ofInt_neg,
    BitVec.ofInt_natCast, BitVec.ofInt_natCast, BitVec.ofNat_toNat, BitVec.ofNat_toNat, BitVec.setWidth_eq,
    BitVec.sub_eq_add_neg]

/-- Settles O20: three fields of two bits, each added less 1, and a delta of 0 on alpha. -/
theorem stepOnADiff8Byte : Obligations.StepOnADiff8Byte := by
  intro s b1 p hvalid h hb hp
  have hpixel : addDeltas s.px (unbias 1 (b1.extractLsb' 4 2)) (unbias 1 (b1.extractLsb' 2 2))
      (unbias 1 (b1.extractLsb' 0 2)) 0 = p := by
    rw [hp, addDeltas, addDelta_unbias, addDelta_unbias, addDelta_unbias, addDelta_zero,
      setWidth_extractLsb'_eq_and (mask := 3) rfl, setWidth_extractLsb'_eq_and (mask := 3) rfl,
      setWidth_extractLsb'_low (mask := 3) rfl]
    rfl
  rw [← hpixel]
  exact h.step_eq (decodeChunk_diff8 hvalid hb) (exec_diff8 s _ _ _)

/-- Settles O21: the field of the first byte and the two of the second, and a delta of 0 on alpha. -/
theorem stepOnADiff16Chunk : Obligations.StepOnADiff16Chunk := by
  intro s b1 b2 p hvalid h hb hp
  have hpixel : addDeltas s.px (unbias 15 (b1.extractLsb' 0 5)) (unbias 7 (b2.extractLsb' 4 4))
      (unbias 7 (b2.extractLsb' 0 4)) 0 = p := by
    rw [hp, addDeltas, addDelta_unbias, addDelta_unbias, addDelta_unbias, addDelta_zero,
      setWidth_extractLsb'_low (mask := 0x1F) rfl, setWidth_extractLsb'_high rfl,
      setWidth_extractLsb'_low (mask := 0x0F) rfl]
    rfl
  rw [← hpixel]
  exact h.step_eq (decodeChunk_diff16 hvalid hb) (exec_diff16 s _ _ _)

/-- Settles O22: the four fields by the bytes that hold them, each added less 15. -/
theorem stepOnADiff24Chunk : Obligations.StepOnADiff24Chunk := by
  intro s b1 b2 b3 p hvalid h hb hp
  have hpixel : addDeltas s.px (unbias 15 ((b1 ++ b2 ++ b3).extractLsb' 15 5))
      (unbias 15 ((b1 ++ b2 ++ b3).extractLsb' 10 5)) (unbias 15 ((b1 ++ b2 ++ b3).extractLsb' 5 5))
      (unbias 15 ((b1 ++ b2 ++ b3).extractLsb' 0 5)) = p := by
    rw [hp, addDeltas, addDelta_unbias, addDelta_unbias, addDelta_unbias, addDelta_unbias, diff24_red, diff24_green,
      diff24_blue, diff24_alpha]
    rfl
  rw [← hpixel]
  exact h.step_eq (decodeChunk_diff24 hvalid hb) (exec_diff24 s _ _ _ _)

/-! COLOR. -/

/-- Settles O23: the literals after the opcode byte are the flagged channels'. -/
theorem stepOnAColorChunk : Obligations.StepOnAColorChunk := by
  intro s b1 r g b a p hvalid h hb hr hg hblue ha hp
  have hdecode : decodeChunk s.cfg.tags (b1 :: (r.toList ++ g.toList ++ b.toList ++ a.toList)) =
      .ok (.color r g b a, []) := by
    have hcolor := decodeColor_append b1 r g b a [] hr hg hblue ha
    rwa [List.append_nil, ← decodeChunk_color hvalid hb] at hcolor
  have hsize : (Instr.color r g b a).size = 1 + (r.toList ++ g.toList ++ b.toList ++ a.toList).length := by
    simp only [Instr.size, List.length_append]
  rw [hp, ← hsize]
  exact h.step_eq hdecode (exec_color s r g b a)

end Sys2Proof.Machine
end

section
/-! SUPPORT. The run of a DECODE from its command to its end: O57. -/

namespace Sys2Proof.Machine

/-! A decoder PIXEL step. -/

/-- 43_chunk_decoder.md R182: a PIXEL step that finds its chunk changes PX, the cache, RUN, CUR and UNDERRUN at most and
stores the pixel, whichever of its branches it takes, or it is the error of R197. -/
theorem step_dec_pixel_cases {s : State} (hsilent : s.inbox = []) (hm : s.mode = .dec) (hp : s.pos < s.n)
    (hfetch : s.cur < s.cdl → ∃ i, s.fetchChunk = some i) :
    (∃ p cache run cur u, step s = .next (State.storePixel
      { s with px := p, cache := cache, run := run, cur := cur, status := { s.status with underrun := u } })) ∨
    (s.cfg.strictTruncation = true ∧ step s = .next
      (State.raise { s with status := s.status.markUnderrun } (.formatError .truncated))) := by
  by_cases hr : s.run = 0
  · by_cases hc : s.cur < s.cdl
    · obtain ⟨i, hf⟩ := hfetch hc
      obtain ⟨p, cache, run, he, -⟩ := exec_chunk (fetchChunk_wf hf).2 s
      rw [step_dec_chunk hsilent hm hp hr hc hf, he]
      exact .inl ⟨p, cache, run, _, s.status.underrun, rfl⟩
    · rw [step_dec_exhausted hsilent hm hp hr hc]
      by_cases hs : s.cfg.strictTruncation = true
      · exact .inr ⟨hs, congrArg _ (exhausted_strict hs)⟩
      · rw [exhausted_lenient hs]
        exact .inl ⟨s.px, s.cache, s.run, s.cur, true, rfl⟩
  · rw [step_dec_hold hsilent hm hp hr]
    exact .inl ⟨s.px, s.cache, s.run - 1, s.cur, s.status.underrun, rfl⟩

/-! The pass. -/

/-- 43_chunk_decoder.md R182: `t` stands in the decode pass that the command at `s` began on a stream with this header,
with `k` pixels decoded, the bytes of those all written. The cursor is free: a fetch is due only inside the region. -/
structure DecodePass (s : State) (hd : Header) (k : Nat) (t : State) : Prop where
  silent   : t.inbox = []
  mode     : t.mode = .dec
  busy     : t.status.busy = true
  cfg      : t.cfg = s.cfg
  src      : t.src = s.src
  width    : t.w = hd.width
  height   : t.h = hd.height
  count    : t.n.toNat = hd.width.toNat * hd.height.toNat
  channels : t.c.count = s.argChannels.toNat
  region   : t.cdl ≠ 0 → 12 + t.cdl.toNat + 4 = s.argSrcLen.toNat
  index    : t.pos.toNat = k
  written  : ∀ a, a < k * t.c.count → (t.dst.read a).isSome = true

/-- R197: the decode that the command at `s` began has ended in TRUNCATED. -/
structure Truncated (s t : State) : Prop where
  silent   : t.inbox = []
  mode     : t.mode = .error
  errClass : t.errClass = 2
  errCause : t.errCause = 6
  strict   : s.cfg.strictTruncation = true

/-- The START step begins the pass, with no pixel decoded. -/
theorem DecodePass.begin {s : State} {hd : Header} (hcmd : s.inbox = [.writeCmd 2]) (hb : s.status.busy = false)
    (h : DecodeArgsLegal s hd) : ∃ t, step s = .next t ∧ DecodePass s hd 0 t := by
  have hlegal : DecodeArgsLegal { s with inbox := [] } hd := ⟨h.channels, h.header, h.width, h.height, h.length⟩
  obtain ⟨c, hcount, he⟩ := exec_decode_legal (s := { s with inbox := [] }) hb hlegal
  refine ⟨_, (step_decode hcmd).trans he, ?_⟩
  exact {
    silent := rfl
    mode := rfl
    busy := rfl
    cfg := rfl
    src := rfl
    width := rfl
    height := rfl
    count := pixelCount_toNat hd.width hd.height
    channels := hcount
    region := chunkDataLength_region h.length
    index := rfl
    written := fun _ ha => absurd ha (by omega) }

/-- 43_chunk_decoder.md R195, 20_memory.md R60: a fetch due in the pass finds the bytes of its chunk, the longest chunk
at the last byte of the region reaching no further than the padding. -/
theorem DecodePass.fetch {s t : State} {hd : Header} {k : Nat} (h : DecodePass s hd k t)
    (hfilled : SrcFilled s s.argSrcLen.toNat) (hc : t.cur < t.cdl) : ∃ i, t.fetchChunk = some i := by
  have hinside : t.cur.toNat < t.cdl.toNat := hc
  have hregion := h.region fun hzero => by simp [hzero] at hinside
  refine fetchChunk_isSome fun j hj => ?_
  rw [h.src]
  exact hfilled _ (by simp only [State.cursorOffset, Config.headerLen]; omega)

/-- 43_chunk_decoder.md R194: whatever the pixel, its store adds it to the pixels written. -/
theorem DecodePass.storePixel {s t : State} {hd : Header} {k : Nat} (h : DecodePass s hd k t) (hp : t.pos < t.n)
    (p : Pixel) (cache : Vector Pixel 64) (run : BitVec 14) (cur : BitVec 64) (u : Bool) :
    DecodePass s hd (k + 1) (State.storePixel
      { t with px := p, cache := cache, run := run, cur := cur, status := { t.status with underrun := u } }) := by
  refine ⟨h.silent, h.mode, h.busy, h.cfg, h.src, h.width, h.height, h.count, h.channels, h.region,
    (toNat_add_one_of_lt hp).trans (congrArg (· + 1) h.index), fun a ha => Memory.isSome_read_writeBytes ?_⟩
  have hlast : (k + 1) * t.c.count = k * t.c.count + t.c.count := Nat.succ_mul _ _
  simp only [storePixel_c, State.pixelOffset, pixelBytes_length, h.index] at ha ⊢
  by_cases hbefore : a < k * t.c.count
  · exact .inr (h.written a hbefore)
  · exact .inl ⟨by omega, by omega⟩

/-- While a pixel is left the PIXEL step decodes it, or raises TRUNCATED. -/
theorem DecodePass.pixel {s t : State} {hd : Header} {k : Nat} (h : DecodePass s hd k t)
    (hk : k < hd.width.toNat * hd.height.toNat) (hfilled : SrcFilled s s.argSrcLen.toNat) :
    ∃ u, step t = .next u ∧ (DecodePass s hd (k + 1) u ∨ Truncated s u) := by
  have hp : t.pos < t.n := by
    rw [BitVec.lt_def, h.index, h.count]
    exact hk
  obtain ⟨p, cache, run, cur, u, hstep⟩ | ⟨hs, hstep⟩ := step_dec_pixel_cases h.silent h.mode hp (h.fetch hfilled)
  · exact ⟨_, hstep, .inl (h.storePixel hp p cache run cur u)⟩
  · exact ⟨_, hstep, .inr ⟨h.silent, rfl, rfl, rfl, h.cfg ▸ hs⟩⟩

/-- After k + 1 steps the command is taken and k pixels are decoded, BUSY all the while, or the decode has ended in
TRUNCATED. -/
theorem DecodePass.after {s : State} {hd : Header} (hcmd : s.inbox = [.writeCmd 2]) (hb : s.status.busy = false)
    (h : DecodeArgsLegal s hd) (hfilled : SrcFilled s s.argSrcLen.toNat) {k : Nat}
    (hk : k ≤ hd.width.toNat * hd.height.toNat) :
    ∃ t, runSteps (k + 1) s = .next t ∧
      (DecodePass s hd k t ∧ (∀ j, j ≤ k → viewAfter (j + 1) s = some .busy) ∨ Truncated s t) := by
  induction k with
  | zero =>
    obtain ⟨t, ht, hpass⟩ := DecodePass.begin hcmd hb h
    have hrun : runSteps 1 s = .next t := runSteps_next_iff.2 ⟨t, ht, rfl⟩
    refine ⟨t, hrun, .inl ⟨hpass, fun j hj => ?_⟩⟩
    obtain rfl := Nat.le_zero.1 hj
    exact viewAfter_busy hrun hpass.busy
  | succ k ih =>
    obtain ⟨t, hrun, ⟨hpass, hbusy⟩ | herr⟩ := ih (Nat.le_of_succ_le hk)
    · obtain ⟨u, hu, hpass' | herr⟩ := hpass.pixel hk hfilled
      · have hrun' := runSteps_next_step hrun hu
        refine ⟨u, hrun', .inl ⟨hpass', fun j hj => ?_⟩⟩
        rcases Nat.le_succ_iff.1 hj with hj | rfl
        · exact hbusy j hj
        · exact viewAfter_busy hrun' hpass'.busy
      · exact ⟨u, runSteps_next_step hrun hu, .inr herr⟩
    · exact ⟨t, runSteps_next_step hrun (step_rest herr.silent (.inr (.inr herr.mode))), .inr herr⟩

/-- 43_chunk_decoder.md R196: with all pixels decoded FINISH reports an image without a gap. -/
theorem DecodePass.finish {s t : State} {hd : Header} (h : DecodePass s hd (hd.width.toNat * hd.height.toNat) t) :
    ∃ u, step t = .next u ∧ u.mode = .done ∧ u.resWidth = hd.width ∧ u.resHeight = hd.height ∧
      u.resLen.toNat = hd.width.toNat * hd.height.toNat * s.argChannels.toNat ∧
      ∀ a, a < u.resLen.toNat → (u.dst.read a).isSome = true := by
  have hp : t.pos = t.n := BitVec.eq_of_toNat_eq (h.index.trans h.count.symm)
  have hlen : (decFinish t).resLen.toNat = hd.width.toNat * hd.height.toNat * t.c.count := by
    rw [decFinish_resLen, h.count]
  refine ⟨_, step_dec_finish h.silent h.mode hp, rfl, h.width, h.height, h.channels ▸ hlen, fun a ha => ?_⟩
  exact h.written a (hlen ▸ ha)

/-- Settles O57: START, N PIXEL steps by `DecodePass.after`, and FINISH; after TRUNCATED the block rests. -/
theorem everyDecodeTerminates : Obligations.EveryDecodeTerminates := by
  intro s hd hcmd hb h hfilled
  obtain ⟨t, hrun, ⟨hpass, hbusy⟩ | herr⟩ := DecodePass.after hcmd hb h hfilled (Nat.le_refl _)
  · obtain ⟨u, hu, hm, hw, hh, hlen, hwritten⟩ := hpass.finish
    exact ⟨u, runSteps_next_step hrun hu, .inl ⟨hm, hw, hh, hlen, hwritten, hbusy⟩⟩
  · exact ⟨t, runSteps_next_step hrun (step_rest herr.silent (.inr (.inr herr.mode))),
      .inr ⟨herr.mode, herr.errClass, herr.errCause, herr.strict⟩⟩

end Sys2Proof.Machine
end

section
/-! SUPPORT. The host's acts, and a write of CMD that is no command or comes while BUSY: O36, O37, O56. -/

namespace Sys2Proof.Machine

/-! A write of CMD. -/

/-- 44_commands.md R224: the values of CMD that are no command. -/
theorem decodeCommand_unknown {v : BitVec 32} (h1 : v ≠ 1) (h2 : v ≠ 2) :
    decodeCommand v = .error (.unknownCommand v) := by
  rw [decodeCommand, if_neg h1, if_neg h2]

/-- 44_commands.md R223, R224: an unknown value is ignored while BUSY and raises BAD_COMMAND otherwise. -/
theorem step_unknownCommand {s : State} {v : BitVec 32} {rest : List HostAct} (hi : s.inbox = .writeCmd v :: rest)
    (h1 : v ≠ 1) (h2 : v ≠ 2) :
    step s = .next
      (if s.status.busy then { s with inbox := rest }
        else State.raise { s with inbox := rest } (.invalidArgument .badCommand)) := by
  rw [step_host hi, hostWork, commandWork, decodeCommand_unknown h1 h2]
  dsimp only
  split_ifs <;> rfl

/-- R223: a command is ignored while BUSY. -/
theorem exec_command_busy {i : Instr} {s : State} (hi : i.isChunk = false) (hb : s.status.busy = true) :
    exec i s = .next s := by
  cases i with
  | encodeCmd | decodeCmd => exact if_pos hb
  | index | run8 | run16 | diff8 | diff16 | diff24 | color => cases hi

/-- Settles O36: while BUSY a command ignores itself, and any other value is ignored. -/
theorem commandWhileBusyIsIgnored : Obligations.CommandWhileBusyIsIgnored := by
  intro s v rest hi hb
  by_cases h1 : v = 1
  · rw [step_encode (h1 ▸ hi)]
    exact exec_command_busy rfl hb
  by_cases h2 : v = 2
  · rw [step_decode (h2 ▸ hi)]
    exact exec_command_busy rfl hb
  rw [step_unknownCommand hi h1 h2, if_pos hb]

/-- Settles O37: not BUSY, an unknown value raises. -/
theorem unknownCommandRaises : Obligations.UnknownCommandRaises := by
  intro s v rest hi hb h1 h2
  rw [step_unknownCommand hi h1 h2, if_neg (ne_true_of_eq_false hb)]
  rfl

/-! The block's own step under whatever acts are still due. -/

/-- What `BlockStep` says is the outcome of the block's own work, the inbox being whatever it is. -/
theorem BlockStep.outcome {s t : State} (h : BlockStep s t) : (blockWork s).outcome = .next t := by
  cases h with
  | rest hm => rcases hm with hm | hm | hm <;> simp [blockWork, hm, Work.outcome]
  | encPixel hm hp hl => simpa [blockWork, hm, hp, Work.outcome] using encPixel_next_iff.2 ⟨_, hl, rfl⟩
  | encFinish hm hp => simp [blockWork, hm, hp, Work.outcome]
  | decHold hm hp hr => simp [blockWork, decPixelWork, hm, hp, Work.outcome, show ¬ s.run = 0#14 from hr]
  | decChunk hm hp hr hc hf he => simp [blockWork, decPixelWork, hm, hp, hr, hc, hf, Work.outcome, he, completePixel]
  | decExhausted hm hp hr hc => simp [blockWork, decPixelWork, hm, hp, hr, hc, Work.outcome]
  | decFinish hm hp => simp [blockWork, hm, hp, Work.outcome]

/-- The state with other acts of the host still due. -/
def State.withInbox (s : State) (ib : List HostAct) : State := { s with inbox := ib }

section WithInbox
variable (s : State) (ib : List HostAct)

theorem encodePixel_withInbox (px : Pixel) : (s.withInbox ib).encodePixel px = (s.encodePixel px).withInbox ib := by
  rw [encodePixel_eq, encodePixel_eq, countRun_eq, countRun_eq, flushRun_run, flushRun_run]
  rfl

theorem encFinish_withInbox : encFinish (s.withInbox ib) = (encFinish s).withInbox ib := by
  rw [encFinish, encFinish, apply_ite (State.withInbox · ib)]
  rfl

theorem exhausted_withInbox : (s.withInbox ib).exhausted = s.exhausted.withInbox ib := by
  rw [State.exhausted, State.exhausted, apply_ite (State.withInbox · ib)]
  rfl

variable {s}

theorem exec_chunk_withInbox {i : Instr} {t : State} (hi : i.isChunk = true) (he : exec i s = .next t) :
    exec i (s.withInbox ib) = .next (t.withInbox ib) := by
  cases i with
  | index | run8 | run16 | diff8 | diff16 | diff24 | color =>
    cases he
    rfl
  | encodeCmd | decodeCmd => cases hi

/-- Log 2: the block's own step neither reads nor writes the acts still due. -/
theorem BlockStep.withInbox {t : State} (h : BlockStep s t) : BlockStep (s.withInbox ib) (t.withInbox ib) := by
  cases h with
  | rest hm => exact .rest hm
  | encPixel hm hp hl =>
    rw [← encodePixel_withInbox]
    exact .encPixel hm hp hl
  | encFinish hm hp =>
    rw [← encFinish_withInbox]
    exact .encFinish hm hp
  | decHold hm hp hr => exact .decHold (s := s.withInbox ib) hm hp hr
  | decChunk hm hp hr hc hf he =>
    exact .decChunk (s := s.withInbox ib) hm hp hr hc hf (exec_chunk_withInbox ib (fetchChunk_wf hf).2 he)
  | decExhausted hm hp hr hc =>
    rw [← exhausted_withInbox]
    exact .decExhausted hm hp hr hc
  | decFinish hm hp => exact .decFinish (s := s.withInbox ib) hm hp

end WithInbox

/-- What a silent block does, it does whatever acts are still due. -/
theorem blockWork_of_silent_step {s t : State} (h : step { s with inbox := [] } = .next t) (ib : List HostAct) :
    (blockWork { s with inbox := ib }).outcome = .next { t with inbox := ib } :=
  (((step_silent_iff rfl).1 h).withInbox ib).outcome

/-- A buffer the host provides reads as the bytes it is given, from offset 0. -/
theorem Memory.read_ofBytes_zero (bs : List Byte) (a : Nat) : (Memory.ofBytes 0 bs).read a = bs[a]? := by
  rw [Memory.read_ofBytes, if_pos (Nat.zero_le a), Nat.sub_zero]

/-- Settles O56, act by act. -/
theorem hostWaitsAndFillsBuffers : Obligations.HostWaitsAndFillsBuffers := by
  intro s rest
  refine ⟨fun t hi ht => ?_, fun t hi hb ht => ?_, fun hi hb => ?_, fun bs hi hb => ?_, fun bs hi hb => ?_,
    fun bs hi hb => ?_, fun bs hi hb => ?_⟩
  · rw [step_host hi]
    exact blockWork_of_silent_step ht rest
  · rw [step_host hi, hostWork, if_pos hb]
    exact blockWork_of_silent_step ht (.awaitNotBusy :: rest)
  · rw [step_host hi, hostWork, if_neg (ne_true_of_eq_false hb)]
    rfl
  · rw [step_host hi, hostWork, if_neg (ne_true_of_eq_false hb)]
    exact ⟨_, rfl, rfl, Memory.read_ofBytes_zero bs⟩
  · rw [step_host hi, hostWork, if_neg (ne_true_of_eq_false hb)]
    exact ⟨_, rfl, rfl, Memory.read_ofBytes_zero bs⟩
  · rw [step_host hi, hostWork, if_pos hb]
    rfl
  · rw [step_host hi, hostWork, if_pos hb]
    rfl

end Sys2Proof.Machine
end

section
/-! SUPPORT. Two runs of one command side by side, from states that may differ in whatever the command does not read:
O59. -/

namespace Sys2Proof.Machine

/-! What a pass does not go by. -/

/-- The parts of a state by which a pass is not steered: the argument registers, the error pair, the results, the
counter of free values; CDL, which an encode pass does not read; and the buffers, of which a pass reads bytes alone. -/
structure Leftovers where
  src         : Memory
  dst         : Memory
  cdl         : BitVec 64
  argWidth    : BitVec 32
  argHeight   : BitVec 32
  argChannels : BitVec 32
  argSrcLen   : BitVec 64
  errClass    : Nat
  errCause    : Nat
  resWidth    : BitVec 16
  resHeight   : BitVec 16
  resLen      : BitVec 64
  freeCtr     : Nat

/-- The leftovers a state holds. -/
def State.leftovers (s : State) : Leftovers where
  src         := s.src
  dst         := s.dst
  cdl         := s.cdl
  argWidth    := s.argWidth
  argHeight   := s.argHeight
  argChannels := s.argChannels
  argSrcLen   := s.argSrcLen
  errClass    := s.errClass
  errCause    := s.errCause
  resWidth    := s.resWidth
  resHeight   := s.resHeight
  resLen      := s.resLen
  freeCtr     := s.freeCtr

/-- The state with other leftovers. -/
def State.withLeftovers (s : State) (x : Leftovers) : State :=
  { s with
    src := x.src
    dst := x.dst
    cdl := x.cdl
    argWidth := x.argWidth
    argHeight := x.argHeight
    argChannels := x.argChannels
    argSrcLen := x.argSrcLen
    errClass := x.errClass
    errCause := x.errCause
    resWidth := x.resWidth
    resHeight := x.resHeight
    resLen := x.resLen
    freeCtr := x.freeCtr }

section WithLeftovers
variable {s : State} {x : Leftovers}

/-- 42_chunk_encoder.md R142: the load depends on the bytes of SRC alone. -/
theorem loadPixel_withLeftovers (h : ∀ a, x.src.read a = s.src.read a) :
    (s.withLeftovers x).loadPixel = s.loadPixel := by
  have hbytes : (s.withLeftovers x).src.readBytes s.pixelOffset s.c.count = s.src.readBytes s.pixelOffset s.c.count :=
    Memory.readBytes_congr fun k _ => h _
  rw [State.loadPixel, State.loadPixel, ← hbytes]
  rfl

/-- 43_chunk_decoder.md R184: so does the fetch. -/
theorem fetchChunk_withLeftovers (h : ∀ a, x.src.read a = s.src.read a) :
    (s.withLeftovers x).fetchChunk = s.fetchChunk := by
  have hbytes : (s.withLeftovers x).fetchBytes = s.fetchBytes := by
    ext bs
    rw [fetchBytes_eq_some, fetchBytes_eq_some]
    refine exists_congr fun b1 => and_congr (Iff.of_eq (congrArg (· = some b1) (h _))) ?_
    exact Iff.of_eq (congrArg (· = some bs) (Memory.readBytes_congr fun k _ => h _))
  rw [State.fetchChunk, State.fetchChunk, hbytes]
  rfl

/-- 42_chunk_encoder.md R156: a PIXEL step writes no leftover but DST. -/
theorem encodePixel_withLeftovers (s : State) (x : Leftovers) (px : Pixel) :
    (s.withLeftovers x).encodePixel px =
      (s.encodePixel px).withLeftovers { x with dst := ((s.withLeftovers x).encodePixel px).dst } := by
  rw [encodePixel_eq, encodePixel_eq, countRun_eq, countRun_eq, flushRun_run, flushRun_run]
  rfl

theorem exec_chunk_withLeftovers {i : Instr} {t : State} (hi : i.isChunk = true) (he : exec i s = .next t) :
    exec i (s.withLeftovers x) = .next (t.withLeftovers x) := by
  cases i with
  | index | run8 | run16 | diff8 | diff16 | diff24 | color =>
    cases he
    rfl
  | encodeCmd | decodeCmd => cases hi

end WithLeftovers

/-! Bytes stored twice. -/

/-- A store leaves two buffers with the same byte where it stored one or they had the same before. -/
theorem Memory.read_writeBytes_congr {m m' : Memory} {vs : List Byte} {x y : Nat}
    (h : (x ≤ y ∧ y < x + vs.length) ∨ m'.read y = m.read y) :
    (m'.writeBytes x vs).read y = (m.writeBytes x vs).read y := by
  rw [Memory.read_writeBytes, Memory.read_writeBytes]
  split_ifs with hinside
  · rfl
  · exact h.resolve_left hinside

/-- The streams of two states that stand at the same cursor agree up to it. -/
structure SameStream (s u : State) : Prop where
  cur   : u.cur = s.cur
  bytes : ∀ a, a < s.cursorOffset → u.dst.read a = s.dst.read a

theorem SameStream.cursorOffset {s u : State} (h : SameStream s u) : u.cursorOffset = s.cursorOffset := by
  rw [State.cursorOffset, h.cur]
  rfl

theorem SameStream.emit {s u : State} (h : SameStream s u) (bs : List Byte) : SameStream (s.emit bs) (u.emit bs) where
  cur := congrArg (· + BitVec.ofNat 64 bs.length) h.cur
  bytes a ha := by
    rw [emit_dst, emit_dst, h.cursorOffset]
    have hcursor : (s.emit bs).cursorOffset ≤ s.cursorOffset + bs.length := by
      simp only [State.cursorOffset, emit_cur, BitVec.toNat_add, BitVec.toNat_ofNat]
      omega
    by_cases hbefore : a < s.cursorOffset
    · exact Memory.read_writeBytes_congr (.inr (h.bytes a hbefore))
    · exact Memory.read_writeBytes_congr (.inl (by omega))

/-- 42_chunk_encoder.md R157: closing the streams leaves them alike to the end of the padding. -/
theorem SameStream.closeStream {s u : State} (h : SameStream s u) {a : Nat} (ha : a < s.cursorOffset + 4) :
    u.closeStream.dst.read a = s.closeStream.dst.read a := by
  have hbody : u.bodyLength = s.bodyLength := by rw [State.bodyLength, State.bodyLength, h.cur]
  rw [closeStream_read, closeStream_read, hbody, h.cursorOffset]
  by_cases hbefore : a < s.cursorOffset
  · rw [h.bytes a hbefore]
  · have hpad : s.cursorOffset ≤ a ∧ a < s.cursorOffset + 4 := ⟨Nat.le_of_not_lt hbefore, ha⟩
    simp only [hpad, and_self, if_true]

/-! Two runs side by side. -/

/-- An encode pass that with the leftovers `x` goes the same way: SRC reads the same, and so does the stream so far. -/
structure EncodingAlike (s : State) (x : Leftovers) : Prop where
  silent : s.inbox = []
  mode   : s.mode = .enc
  busy   : s.status.busy = true
  src    : ∀ a, x.src.read a = s.src.read a
  stream : SameStream s (s.withLeftovers x)

/-- A decode pass that with the leftovers `x` goes the same way: SRC and the pixels so far read the same, and the chunk
region is as long. -/
structure DecodingAlike (s : State) (x : Leftovers) : Prop where
  silent : s.inbox = []
  mode   : s.mode = .dec
  busy   : s.status.busy = true
  src    : ∀ a, x.src.read a = s.src.read a
  cdl    : x.cdl = s.cdl
  pixels : ∀ a, a < s.pixelOffset → x.dst.read a = s.dst.read a

/-- The command has ended. -/
structure Ended (s : State) : Prop where
  silent : s.inbox = []
  mode   : s.mode = .done ∨ s.mode = .error

/-- 44_commands.md R226: states the host cannot tell apart, now or later. -/
inductive Alike : State → State → Prop where
  | encoding {s : State} {x : Leftovers} (h : EncodingAlike s x) : Alike s (s.withLeftovers x)
  | decoding {s : State} {x : Leftovers} (h : DecodingAlike s x) : Alike s (s.withLeftovers x)
  | ended {s u : State} (hs : Ended s) (hu : Ended u) (view : hostView s = hostView u) : Alike s u

theorem Alike.hostView_eq {s u : State} (h : Alike s u) : hostView s = hostView u := by
  cases h with
  | encoding h => exact (if_pos h.busy).trans (if_pos h.busy).symm
  | decoding h => exact (if_pos h.busy).trans (if_pos h.busy).symm
  | ended _ _ view => exact view

/-- Both states take a step to states that are alike, or both stop with the same fault. -/
def StepAlike (s u : State) : Prop :=
  (∃ t v, step s = .next t ∧ step u = .next v ∧ Alike t v) ∨ (∃ r, step s = .fault r ∧ step u = .fault r)

theorem StepAlike.next {s u t v : State} (hs : step s = .next t) (hu : step u = .next v) (h : Alike t v) :
    StepAlike s u := .inl ⟨t, v, hs, hu, h⟩

theorem StepAlike.fault {s u : State} {r : Fault} (hs : step s = .fault r) (hu : step u = .fault r) :
    StepAlike s u := .inr ⟨r, hs, hu⟩

theorem Ended.step {s : State} (h : Ended s) : step s = .next s := step_rest h.silent (.inr h.mode)

/-- 60_exceptions.md R246: of an error the host reads the pair and UNDERRUN alone. -/
theorem Alike.raise {s u : State} (e : CodecError) (hs : s.inbox = []) (hu : u.inbox = [])
    (hunder : u.status.underrun = s.status.underrun) : Alike (s.raise e) (u.raise e) :=
  .ended ⟨hs, .inr rfl⟩ ⟨hu, .inr rfl⟩ (congrArg (HostView.failed _ _) hunder.symm)

/-- Pixels are left, all are done, or (log 14) POS is past N. -/
theorem pos_trichotomy (s : State) : s.pos < s.n ∨ s.pos = s.n ∨ s.n < s.pos := by
  bv_omega

/-- Log 14, for the two runs as for one: past the last pixel the block stops. -/
theorem step_pass_end {s : State} (hsilent : s.inbox = []) (hm : s.mode = .enc ∨ s.mode = .dec) (hp : s.n < s.pos) :
    step s = .fault .posPastEnd := by
  have hlt : ¬ s.pos < s.n := BitVec.not_lt.2 (BitVec.le_of_lt hp)
  have hne : s.pos ≠ s.n := (BitVec.ne_of_lt hp).symm
  rcases hm with hm | hm <;> simp [step_silent hsilent, blockWork, hm, hlt, hne, Work.outcome]

/-! An encode pass. -/

theorem encodePixel_inbox (s : State) (px : Pixel) : (s.encodePixel px).inbox = s.inbox := by
  rw [encodePixel_eq]
  rfl

theorem encodePixel_status (s : State) (px : Pixel) : (s.encodePixel px).status = s.status := by
  rw [encodePixel_eq]
  rfl

/-- 42_chunk_encoder.md R156: a PIXEL step emits the same bytes whatever the leftovers. -/
theorem SameStream.encodePixel {s : State} {x : Leftovers} (h : SameStream s (s.withLeftovers x)) (px : Pixel) :
    SameStream (s.encodePixel px) ((s.withLeftovers x).encodePixel px) := by
  obtain ⟨hcur, hbytes⟩ := (h.emit ((s.countRun px).flushBytes px)).emit (s.selectBytes px)
  rw [encodePixel_eq, encodePixel_eq, countRun_eq (s.withLeftovers x)]
  rw [countRun_eq] at hcur hbytes ⊢
  exact ⟨hcur, hbytes⟩

theorem EncodingAlike.pixel {s : State} {x : Leftovers} (h : EncodingAlike s x) (px : Pixel) :
    Alike (s.encodePixel px) ((s.withLeftovers x).encodePixel px) := by
  have hstream := h.stream.encodePixel px
  rw [encodePixel_withLeftovers] at hstream ⊢
  exact .encoding {
    silent := (encodePixel_inbox s px).trans h.silent
    mode := (encodePixel_mode s px).trans h.mode
    busy := (congrArg Status.busy (encodePixel_status s px)).trans h.busy
    src := fun a => (h.src a).trans (congrArg (·.src.read a) (encodePixel_inputs s px)).symm
    stream := hstream }

/-- 42_chunk_encoder.md R157, R158: FINISH finds the same length, and the host reads the stream no further than the
padding. -/
theorem EncodingAlike.finish {s : State} {x : Leftovers} (h : EncodingAlike s x) :
    Alike (encFinish s) (encFinish (s.withLeftovers x)) := by
  by_cases hlong : Config.bodyMax < s.bodyLength
  · rw [encFinish_tooLong hlong, encFinish_tooLong (s := s.withLeftovers x) hlong]
    exact .raise _ h.silent h.silent rfl
  · rw [encFinish_done hlong, encFinish_done (s := s.withLeftovers x) hlong]
    refine .ended ⟨h.silent, .inl rfl⟩ ⟨h.silent, .inl rfl⟩ (congrArg (HostView.done _ _ _ · _) ?_)
    refine Memory.readBytes_congr fun a ha => (h.stream.closeStream ?_).symm
    rw [Nat.zero_add]
    exact Nat.lt_of_lt_of_le ha (by rw [BitVec.toNat_ofNat]; exact Nat.mod_le _ _)

theorem EncodingAlike.step {s : State} {x : Leftovers} (h : EncodingAlike s x) : StepAlike s (s.withLeftovers x) := by
  have hsilent : (s.withLeftovers x).inbox = [] := h.silent
  rcases pos_trichotomy s with hp | hp | hp
  · have hs := step_enc_pixel h.silent h.mode hp
    have hu := step_enc_pixel hsilent h.mode hp
    rw [encPixel] at hs hu
    rw [loadPixel_withLeftovers h.src] at hu
    cases hl : s.loadPixel with
    | none => rw [hl] at hs hu; exact .fault hs hu
    | some px => rw [hl] at hs hu; exact .next hs hu (h.pixel px)
  · exact .next (step_enc_finish h.silent h.mode hp) (step_enc_finish hsilent h.mode hp) h.finish
  · exact .fault (step_pass_end h.silent (.inl h.mode) hp) (step_pass_end hsilent (.inl h.mode) hp)

/-! A decode pass. -/

/-- 43_chunk_decoder.md R182: whatever a PIXEL step makes of the registers, before its store the passes are as alike. -/
theorem DecodingAlike.registers {s : State} {x : Leftovers} (h : DecodingAlike s x) (p : Pixel)
    (cache : Vector Pixel 64) (run : BitVec 14) (cur : BitVec 64) (underrun : Bool) :
    DecodingAlike
      { s with px := p, cache := cache, run := run, cur := cur, status := { s.status with underrun := underrun } } x :=
  ⟨h.silent, h.mode, h.busy, h.src, h.cdl, h.pixels⟩

/-- 43_chunk_decoder.md R194: both store the same pixel. -/
theorem DecodingAlike.storePixel {s : State} {x : Leftovers} (h : DecodingAlike s x) :
    Alike s.storePixel (s.withLeftovers x).storePixel := by
  refine .decoding (x := { x with dst := (s.withLeftovers x).storePixel.dst })
    ⟨h.silent, h.mode, h.busy, h.src, h.cdl, fun a ha => Memory.read_writeBytes_congr ?_⟩
  have hnext : (s.pos + 1).toNat * s.c.count ≤ s.pos.toNat * s.c.count + s.c.count := by
    rw [← Nat.succ_mul]
    exact Nat.mul_le_mul_right _ (by bv_omega)
  by_cases hbefore : a < s.pixelOffset
  · exact .inr (h.pixels a hbefore)
  · refine .inl ⟨Nat.le_of_not_lt hbefore, ?_⟩
    rw [pixelBytes_length]
    exact Nat.lt_of_lt_of_le ha hnext

/-- 43_chunk_decoder.md R193, R197. -/
theorem DecodingAlike.exhausted {s : State} {x : Leftovers} (h : DecodingAlike s x) :
    Alike s.exhausted (s.withLeftovers x).exhausted := by
  by_cases hs : s.cfg.strictTruncation = true
  · rw [exhausted_strict hs, exhausted_strict (s := s.withLeftovers x) hs]
    exact .raise _ h.silent h.silent rfl
  · rw [exhausted_lenient hs, exhausted_lenient (s := s.withLeftovers x) hs]
    exact (h.registers s.px s.cache s.run s.cur true).storePixel

/-- 43_chunk_decoder.md R196: the host reads exactly the pixels decoded. -/
theorem DecodingAlike.finish {s : State} {x : Leftovers} (h : DecodingAlike s x) (hp : s.pos = s.n) :
    Alike (decFinish s) (decFinish (s.withLeftovers x)) := by
  refine .ended ⟨h.silent, .inl rfl⟩ ⟨h.silent, .inl rfl⟩ (congrArg (HostView.done _ _ _ · _) ?_)
  refine Memory.readBytes_congr fun a ha => (h.pixels _ ?_).symm
  rw [decFinish_resLen, ← hp] at ha
  rwa [Nat.zero_add]

/-- 43_chunk_decoder.md R182: both passes take the same branch of a PIXEL step. -/
theorem DecodingAlike.pixel {s : State} {x : Leftovers} (h : DecodingAlike s x) (hp : s.pos < s.n) :
    StepAlike s (s.withLeftovers x) := by
  have hsilent : (s.withLeftovers x).inbox = [] := h.silent
  have hfetch := fetchChunk_withLeftovers h.src
  by_cases hr : s.run = 0
  · by_cases hc : s.cur < s.cdl
    · have hc' : s.cur < x.cdl := h.cdl ▸ hc
      cases hf : s.fetchChunk with
      | none =>
        exact .fault (step_dec_unfilled h.silent h.mode hp hr hc hf)
          (step_dec_unfilled hsilent h.mode hp hr hc' (hfetch.trans hf))
      | some i =>
        have hi := (fetchChunk_wf hf).2
        obtain ⟨p, cache, run, he, -⟩ := exec_chunk hi s
        have hs := step_dec_chunk h.silent h.mode hp hr hc hf
        have hu := step_dec_chunk hsilent h.mode hp hr hc' (hfetch.trans hf)
        rw [he] at hs
        rw [exec_chunk_withLeftovers hi he] at hu
        exact .next hs hu (h.registers p cache run _ s.status.underrun).storePixel
    · have hc' : ¬ s.cur < x.cdl := h.cdl ▸ hc
      exact .next (step_dec_exhausted h.silent h.mode hp hr hc) (step_dec_exhausted hsilent h.mode hp hr hc')
        h.exhausted
  · exact .next (step_dec_hold h.silent h.mode hp hr) (step_dec_hold hsilent h.mode hp hr)
      (h.registers s.px s.cache (s.run - 1) s.cur s.status.underrun).storePixel

theorem DecodingAlike.step {s : State} {x : Leftovers} (h : DecodingAlike s x) : StepAlike s (s.withLeftovers x) := by
  have hsilent : (s.withLeftovers x).inbox = [] := h.silent
  rcases pos_trichotomy s with hp | hp | hp
  · exact h.pixel hp
  · exact .next (step_dec_finish h.silent h.mode hp) (step_dec_finish hsilent h.mode hp) (h.finish hp)
  · exact .fault (step_pass_end h.silent (.inr h.mode) hp) (step_pass_end hsilent (.inr h.mode) hp)

/-! The views. -/

theorem Alike.step {s u : State} (h : Alike s u) : StepAlike s u := by
  cases h with
  | encoding h => exact h.step
  | decoding h => exact h.step
  | ended hs hu view => exact .next hs.step hu.step (.ended hs hu view)

theorem viewAfter_of_next {k : Nat} {s t : State} (h : Machine.step s = .next t) :
    viewAfter (k + 1) s = viewAfter k t := by
  have hcore : Sys2Proof.core.step s = .next t := h
  simp only [viewAfter, runSteps, Host.Core.run, hcore]

theorem viewAfter_of_fault {k : Nat} {s : State} {r : Fault} (h : Machine.step s = .fault r) :
    viewAfter (k + 1) s = none := by
  have hcore : Sys2Proof.core.step s = .fault r := h
  simp only [viewAfter, runSteps, Host.Core.run, hcore]

/-- Steps that are alike leave the host to see the same later, if it does after states that are alike. -/
theorem StepAlike.viewAfter_eq {s u : State} {k : Nat} (h : StepAlike s u)
    (hk : ∀ t v, Alike t v → viewAfter k t = viewAfter k v) : viewAfter (k + 1) s = viewAfter (k + 1) u := by
  obtain ⟨t, v, hs, hu, halike⟩ | ⟨r, hs, hu⟩ := h
  · rw [viewAfter_of_next hs, viewAfter_of_next hu, hk t v halike]
  · rw [viewAfter_of_fault hs, viewAfter_of_fault hu]

theorem Alike.viewAfter_eq {s u : State} (h : Alike s u) (k : Nat) : viewAfter k s = viewAfter k u := by
  induction k generalizing s u with
  | zero => exact congrArg some h.hostView_eq
  | succ k ih => exact h.step.viewAfter_eq fun _ _ h => ih h

/-! START. -/

theorem encodeCheck_congr {s u : State} (hw : s.argWidth = u.argWidth) (hh : s.argHeight = u.argHeight)
    (hc : s.argChannels = u.argChannels) (hl : s.argSrcLen = u.argSrcLen) : encodeCheck s = encodeCheck u := by
  rw [encodeCheck, encodeCheck, hw, hh, hc, hl]

/-- 41_header_codec.md R127: the header depends on the bytes of SRC alone. -/
theorem readHeader_congr {m m' : Memory} (h : ∀ a, m.read a = m'.read a) (len : Nat) :
    readHeader m len = readHeader m' len := by
  have hbytes : ∀ x n, m.readBytes x n = m'.readBytes x n := fun x n => Memory.readBytes_congr fun k _ => h _
  simp only [readHeader, hbytes]

theorem decodeCheck_congr {s u : State} (hc : s.argChannels = u.argChannels) (hl : s.argSrcLen = u.argSrcLen)
    (hsrc : ∀ a, s.src.read a = u.src.read a) : decodeCheck s = decodeCheck u := by
  rw [decodeCheck, decodeCheck, hc, hl, readHeader_congr hsrc]

section Start
variable {s : State} (hb : s.status.busy = false)
include hb

theorem exec_encode_error {cause : InvalidCause} (hc : encodeCheck s = .error cause) :
    exec .encodeCmd s = .next (s.accept.raise (.invalidArgument cause)) := by
  simp [exec, execEncode, hb, hc]

theorem exec_encode_ok {c : Channels} (hc : encodeCheck s = .ok c) :
    exec .encodeCmd s = .next (encodeBegin c s.accept) := by
  simp [exec, execEncode, hb, hc]

theorem exec_decode_unfilled (hc : decodeCheck s = none) : exec .decodeCmd s = .fault .srcUnfilled := by
  simp [exec, execDecode, hb, hc]

theorem exec_decode_error {cause : FormatCause} (hc : decodeCheck s = some (.error cause)) :
    exec .decodeCmd s = .next (s.accept.raise (.formatError cause)) := by
  simp [exec, execDecode, hb, hc]

theorem exec_decode_ok {c : Channels} {hd : Header} (hc : decodeCheck s = some (.ok (c, hd))) :
    exec .decodeCmd s = .next (decodeBegin c hd s.accept) := by
  simp [exec, execDecode, hb, hc]

end Start

/-- A command the host writes last leaves the host silent. -/
theorem step_encode_last {s : State} (hi : s.inbox = [.writeCmd 1]) : step s = exec .encodeCmd (s.withInbox []) :=
  step_encode hi

theorem step_decode_last {s : State} (hi : s.inbox = [.writeCmd 2]) : step s = exec .decodeCmd (s.withInbox []) :=
  step_decode hi

/-- 42_chunk_encoder.md R141: the header with a placeholder length. -/
theorem encodeBegin_dst (c : Channels) (s : State) :
    (encodeBegin c s).dst =
      s.dst.writeBytes 0 (writeHeader ⟨s.argWidth.setWidth 16, s.argHeight.setWidth 16, 0⟩) := rfl

/-- R141: both passes begin with the same registers and the same header. -/
theorem Alike.encodeBegin {s u : State} (c : Channels) (hs : s.inbox = []) (hu : u.inbox = []) (hcfg : s.cfg = u.cfg)
    (hw : s.argWidth = u.argWidth) (hh : s.argHeight = u.argHeight) (hsrc : ∀ a, s.src.read a = u.src.read a) :
    Alike (encodeBegin c s.accept) (encodeBegin c u.accept) := by
  have hsame : Machine.encodeBegin c u.accept =
      (Machine.encodeBegin c s.accept).withLeftovers (Machine.encodeBegin c u.accept).leftovers := by
    simp only [Machine.encodeBegin, State.initPass, State.freeResults, State.accept, State.withLeftovers,
      State.leftovers, hs, hu, hcfg, hw, hh]
  have hheader : ∀ a, a < 12 →
      (Machine.encodeBegin c u.accept).dst.read a = (Machine.encodeBegin c s.accept).dst.read a := fun a ha => by
    rw [encodeBegin_dst, encodeBegin_dst, accept_argWidth, accept_argHeight, accept_argWidth, accept_argHeight, hw, hh]
    exact Memory.read_writeBytes_congr (.inl ⟨Nat.zero_le a, by simpa using ha⟩)
  rw [hsame]
  exact .encoding ⟨hs, rfl, rfl, fun a => (hsrc a).symm, rfl, hheader⟩

/-- 43_chunk_decoder.md R181: both passes begin with the same registers and no pixel. -/
theorem Alike.decodeBegin {s u : State} (c : Channels) (hd : Header) (hs : s.inbox = []) (hu : u.inbox = [])
    (hcfg : s.cfg = u.cfg) (hsrc : ∀ a, s.src.read a = u.src.read a) :
    Alike (decodeBegin c hd s.accept) (decodeBegin c hd u.accept) := by
  have hsame : Machine.decodeBegin c hd u.accept =
      (Machine.decodeBegin c hd s.accept).withLeftovers (Machine.decodeBegin c hd u.accept).leftovers := by
    simp only [Machine.decodeBegin, State.initPass, State.freeResults, State.accept, State.withLeftovers,
      State.leftovers, hs, hu, hcfg]
  rw [hsame]
  refine .decoding ⟨hs, rfl, rfl, fun a => (hsrc a).symm, rfl, fun a ha => absurd ha ?_⟩
  simp [State.pixelOffset, Machine.decodeBegin]

/-- 44_commands.md R226 for ENCODE: what it reads of the state decides its START step. -/
theorem StepAlike.encode {s u : State} (hs : s.inbox = [.writeCmd 1]) (hu : u.inbox = [.writeCmd 1])
    (hbs : s.status.busy = false) (hbu : u.status.busy = false) (hcfg : s.cfg = u.cfg)
    (hw : s.argWidth = u.argWidth) (hh : s.argHeight = u.argHeight) (hc : s.argChannels = u.argChannels)
    (hl : s.argSrcLen = u.argSrcLen) (hsrc : ∀ a, s.src.read a = u.src.read a) : StepAlike s u := by
  have hcheck := encodeCheck_congr (s := s.withInbox []) (u := u.withInbox []) hw hh hc hl
  replace hbs : (s.withInbox []).status.busy = false := hbs
  replace hbu : (u.withInbox []).status.busy = false := hbu
  rw [StepAlike, step_encode_last hs, step_encode_last hu]
  cases hcs : encodeCheck (s.withInbox []) with
  | error cause =>
    have hcu := hcheck.symm.trans hcs
    exact .inl ⟨_, _, exec_encode_error hbs hcs, exec_encode_error hbu hcu, .raise _ rfl rfl rfl⟩
  | ok c =>
    have hcu := hcheck.symm.trans hcs
    exact .inl ⟨_, _, exec_encode_ok hbs hcs, exec_encode_ok hbu hcu, .encodeBegin c rfl rfl hcfg hw hh hsrc⟩

/-- R226 for DECODE, which reads neither ARG_WIDTH nor ARG_HEIGHT. -/
theorem StepAlike.decode {s u : State} (hs : s.inbox = [.writeCmd 2]) (hu : u.inbox = [.writeCmd 2])
    (hbs : s.status.busy = false) (hbu : u.status.busy = false) (hcfg : s.cfg = u.cfg)
    (hc : s.argChannels = u.argChannels) (hl : s.argSrcLen = u.argSrcLen)
    (hsrc : ∀ a, s.src.read a = u.src.read a) : StepAlike s u := by
  have hcheck := decodeCheck_congr (s := s.withInbox []) (u := u.withInbox []) hc hl hsrc
  replace hbs : (s.withInbox []).status.busy = false := hbs
  replace hbu : (u.withInbox []).status.busy = false := hbu
  rw [StepAlike, step_decode_last hs, step_decode_last hu]
  cases hcs : decodeCheck (s.withInbox []) with
  | none =>
    have hcu := hcheck.symm.trans hcs
    exact .inr ⟨_, exec_decode_unfilled hbs hcs, exec_decode_unfilled hbu hcu⟩
  | some r =>
    have hcu := hcheck.symm.trans hcs
    cases r with
    | error cause =>
      exact .inl ⟨_, _, exec_decode_error hbs hcs, exec_decode_error hbu hcu, .raise _ rfl rfl rfl⟩
    | ok start =>
      exact .inl ⟨_, _, exec_decode_ok hbs hcs, exec_decode_ok hbu hcu, .decodeBegin _ _ rfl rfl hcfg hsrc⟩

/-- Settles O59: the START steps leave states the host cannot tell apart, and so does every step after. -/
theorem commandsArePureFunctions : Obligations.CommandsArePureFunctions := by
  intro s u v k hv hs hu hbs hbu hcfg hargs hc hl hsrc
  have hstart : StepAlike s u := by
    rcases hv with rfl | rfl
    · obtain ⟨hw, hh⟩ := hargs rfl
      exact .encode hs hu hbs hbu hcfg hw hh hc hl hsrc
    · exact .decode hs hu hbs hbu hcfg hc hl hsrc
  exact hstart.viewAfter_eq fun _ _ h => h.viewAfter_eq k

end Sys2Proof.Machine
end

section
/-! SUPPORT. The stream an ENCODE leaves, as the bytes its PIXEL steps emit one after the other. -/

namespace Sys2Proof.Machine

/-! Consecutive bytes. -/

/-- Two reads, the second where the first ends, are one: the converse of `Memory.readBytes_split`. -/
theorem Memory.readBytes_join {m : Memory} {x a b : Nat} {p q : List Byte} (hp : m.readBytes x a = some p)
    (hq : m.readBytes (x + a) b = some q) : m.readBytes x (a + b) = some (p ++ q) := by
  obtain ⟨rfl, hpr⟩ := Memory.readBytes_eq_some.1 hp
  obtain ⟨rfl, hqr⟩ := Memory.readBytes_eq_some.1 hq
  refine Memory.readBytes_eq_some.2 ⟨List.length_append, fun k hk => ?_⟩
  by_cases hleft : k < p.length
  · rw [hpr k hleft, List.getElem?_append_left hleft]
  · obtain ⟨j, rfl⟩ : ∃ j, k = p.length + j := ⟨k - p.length, by omega⟩
    rw [← Nat.add_assoc, hqr j (by omega), List.getElem?_append_right (Nat.le_add_right _ _), Nat.add_sub_cancel_left]

/-- A store outside the bytes read. -/
theorem Memory.readBytes_writeBytes_outside {m : Memory} {x n y : Nat} {vs : List Byte}
    (h : x + n ≤ y ∨ y + vs.length ≤ x) : (m.writeBytes y vs).readBytes x n = m.readBytes x n :=
  Memory.readBytes_congr fun k hk => Memory.read_writeBytes_outside vs m (by omega)

/-- Bytes stored where those read end are appended. -/
theorem Memory.readBytes_writeBytes_append {m : Memory} {n : Nat} {bs : List Byte} (h : m.readBytes 0 n = some bs)
    (vs : List Byte) : (m.writeBytes n vs).readBytes 0 (n + vs.length) = some (bs ++ vs) := by
  refine Memory.readBytes_join ?_ ?_
  · rw [Memory.readBytes_writeBytes_outside (.inl (by omega))]
    exact h
  · rw [Nat.zero_add]
    exact Memory.readBytes_writeBytes_same vs m n

/-- Bytes stored over as many as there are replace them. -/
theorem Memory.readBytes_writeBytes_patch {m : Memory} {front old back : List Byte} {vs : List Byte}
    (h : m.readBytes 0 (front.length + (old.length + back.length)) = some (front ++ (old ++ back)))
    (hlen : vs.length = old.length) :
    (m.writeBytes front.length vs).readBytes 0 (front.length + (old.length + back.length)) =
      some (front ++ (vs ++ back)) := by
  obtain ⟨hfront, hrest⟩ := Memory.readBytes_split rfl List.length_append h
  obtain ⟨-, hback⟩ := Memory.readBytes_split rfl rfl hrest
  refine Memory.readBytes_join ?_ (Memory.readBytes_join ?_ ?_)
  · rw [Memory.readBytes_writeBytes_outside (.inl (by omega))]
    exact hfront
  · rw [Nat.zero_add, ← hlen]
    exact Memory.readBytes_writeBytes_same vs m front.length
  · rw [Memory.readBytes_writeBytes_outside (.inr (by omega))]
    exact hback

/-! What a PIXEL step keeps. -/

/-- The state with what PIXEL steps write set aside: two states of one pass are equal in the rest. -/
def State.passFrame (s : State) : State :=
  { s with px := Config.pxInit, cache := cacheClear, run := 0, cur := 0, pos := 0, dst := [] }

theorem countRun_passFrame (s : State) (px : Pixel) : (s.countRun px).passFrame = s.passFrame := by
  rw [countRun_eq]
  rfl

theorem flushRun_passFrame (s : State) (px : Pixel) : (s.flushRun px).passFrame = s.passFrame := by
  rw [flushRun_eq]
  rfl

theorem encodePixel_passFrame (s : State) (px : Pixel) : (s.encodePixel px).passFrame = s.passFrame := by
  rw [encodePixel_eq]
  rfl

theorem encodePixel_pos {s : State} (hp : s.pos < s.n) (px : Pixel) :
    (s.encodePixel px).pos.toNat = s.pos.toNat + 1 := by
  rw [encodePixel_eq]
  exact toNat_add_one_of_lt hp

/-! The PIXEL steps of a pass. -/

/-- 42_chunk_encoder.md R156: PIXEL steps lead from `e₀` to `e`, and the bytes emitted on the way are `bs`. -/
inductive Encodes (e₀ : State) : List Byte → State → Prop where
  | start : Encodes e₀ [] e₀
  | pixel {bs : List Byte} {e : State} {px : Pixel} (h : Encodes e₀ bs e) (hp : e.pos < e.n)
      (hl : e.loadPixel = some px) : Encodes e₀ (bs ++ e.stepBytes px) (e.encodePixel px)

theorem Encodes.passFrame {e₀ e : State} {bs : List Byte} (h : Encodes e₀ bs e) : e.passFrame = e₀.passFrame := by
  induction h with
  | start => rfl
  | pixel _ _ _ ih => exact (encodePixel_passFrame _ _).trans ih

theorem Encodes.shape {e₀ e : State} {bs : List Byte} (h : Encodes e₀ bs e) (h₀ : EncoderShape e₀) :
    EncoderShape e := by
  induction h with
  | start => exact h₀
  | pixel _ hp _ ih => exact ih.encodePixel hp _

/-- R141: what is emitted is appended to the stream, as long as CUR does not wrap. -/
theorem emit_readBytes {s : State} {bs vs : List Byte} (hcur : s.cur.toNat + vs.length < 2 ^ 64)
    (h : s.dst.readBytes 0 s.cursorOffset = some bs) :
    (s.emit vs).dst.readBytes 0 (s.emit vs).cursorOffset = some (bs ++ vs) := by
  have hcursor : (s.emit vs).cursorOffset = s.cursorOffset + vs.length := by
    simp only [State.cursorOffset, emit_cur, BitVec.toNat_add, BitVec.toNat_ofNat]
    omega
  rw [hcursor]
  exact Memory.readBytes_writeBytes_append h vs

theorem stepBytes_length {s : State} (h : EncoderShape s) (px : Pixel) : (s.stepBytes px).length ≤ 8229 := by
  have hrun := countRun_toNat h.run px
  have hflush := (flushBytes_length (s.countRun px) px).1
  obtain ⟨hsame, hdiff⟩ := selectBytes_length s px
  have := h.run
  rw [State.stepBytes, List.length_append]
  by_cases hpx : px = s.px
  · have := hsame hpx
    rw [if_pos hpx] at hrun
    omega
  · have := hdiff hpx
    rw [if_neg hpx] at hrun
    omega

/-- The stream up to the cursor is what it held before the first PIXEL step and the bytes emitted since. -/
theorem Encodes.stream {e₀ e : State} {bs start : List Byte} (h : Encodes e₀ bs e) (h₀ : EncoderShape e₀)
    (hstart : e₀.dst.readBytes 0 e₀.cursorOffset = some start) :
    e.dst.readBytes 0 e.cursorOffset = some (start ++ bs) := by
  induction h with
  | start => rwa [List.append_nil]
  | @pixel bs e px h _ _ ih =>
    have hshape := h.shape h₀
    have hcur := hshape.cur_le
    have hlen := stepBytes_length hshape px
    rw [encodePixel_eq_emit hcur, ← List.append_assoc]
    exact emit_readBytes (by omega) ih

/-- As long as pixels are left, each step of a run that goes on is a PIXEL step; then FINISH follows. -/
theorem Encodes.of_run {e₀ e t : State} {bs : List Byte} {j : Nat} (hsilent : e₀.inbox = []) (hm : e₀.mode = .enc)
    (h : Encodes e₀ bs e) (hj : e.pos.toNat + j = e.n.toNat) (hrun : runSteps (j + 1) e = .next t) :
    ∃ bs' e', Encodes e₀ bs' e' ∧ e'.pos = e'.n ∧ t = encFinish e' := by
  induction j generalizing bs e with
  | zero =>
    have hsilent' : e.inbox = [] := (congrArg State.inbox h.passFrame).trans hsilent
    have hm' : e.mode = .enc := (congrArg State.mode h.passFrame).trans hm
    have hp : e.pos = e.n := BitVec.eq_of_toNat_eq hj
    obtain ⟨u, hu, hrest⟩ := runSteps_next_iff.1 hrun
    rw [step_enc_finish hsilent' hm' hp] at hu
    cases hu
    cases hrest
    exact ⟨bs, e, h, hp, rfl⟩
  | succ j ih =>
    have hsilent' : e.inbox = [] := (congrArg State.inbox h.passFrame).trans hsilent
    have hm' : e.mode = .enc := (congrArg State.mode h.passFrame).trans hm
    have hp : e.pos < e.n := by
      rw [BitVec.lt_def]
      omega
    obtain ⟨u, hu, hrest⟩ := runSteps_next_iff.1 hrun
    rw [step_enc_pixel hsilent' hm' hp] at hu
    obtain ⟨px, hl, rfl⟩ := encPixel_next_iff.1 hu
    refine ih (h.pixel hp hl) ?_ hrest
    have hpos := encodePixel_pos hp px
    have hn : (e.encodePixel px).n = e.n := by
      rw [encodePixel_eq]
      rfl
    rw [hpos, hn]
    omega

/-! The whole run. -/

theorem runSteps_rest {s : State} (hsilent : s.inbox = []) (hm : s.mode = .idle ∨ s.mode = .done ∨ s.mode = .error)
    (k : Nat) : runSteps k s = .next s := by
  induction k with
  | zero => rfl
  | succ k ih => exact runSteps_next_iff.2 ⟨s, step_rest hsilent hm, ih⟩

theorem encodeCheck_channels {s : State} {c : Channels} (h : encodeCheck s = .ok c) :
    Channels.ofArg s.argChannels = some c := by
  simp only [encodeCheck] at h
  split_ifs at h
  split at h
  · cases h
  · rename_i hc
    split_ifs at h
    cases h
    exact hc

/-- 10_state.md R30: a channel count that is accepted is 3 or 4, and the number of bytes of a pixel. -/
theorem ofArg_some {v : BitVec 32} {c : Channels} (h : Channels.ofArg v = some c) :
    (v = 3 ∨ v = 4) ∧ c.count = v.toNat := by
  simp only [Channels.ofArg] at h
  split_ifs at h with h3 h4 <;> cases h
  · exact ⟨.inl h3, h3 ▸ rfl⟩
  · exact ⟨.inr h4, h4 ▸ rfl⟩

/-- The pass that ENCODE begins at `s`. -/
def encodeStart (c : Channels) (s : State) : State := encodeBegin c (s.withInbox []).accept

theorem encodeStart_n {s : State} {c : Channels} (hc : encodeCheck s = .ok c) :
    (encodeStart c s).n.toNat = s.argWidth.toNat * s.argHeight.toNat := by
  obtain ⟨⟨-, hw⟩, -, hh⟩ := encodeCheck_ok hc
  rw [← toNat_setWidth_16 hw, ← toNat_setWidth_16 hh]
  exact pixelCount_toNat _ _

theorem encodeStart_shape (c : Channels) (s : State) : EncoderShape (encodeStart c s) :=
  ⟨Nat.zero_le _, fun _ => rfl, Nat.le_refl _, nofun⟩

/-- R141: before the first PIXEL step the stream is the header with a placeholder length. -/
theorem encodeStart_stream (c : Channels) (s : State) :
    (encodeStart c s).dst.readBytes 0 (encodeStart c s).cursorOffset =
      some (writeHeader ⟨(encodeStart c s).w, (encodeStart c s).h, 0⟩) :=
  Memory.readBytes_writeBytes_same (writeHeader _) s.dst 0

/-- 42_chunk_encoder.md R141, R156 to R158: an ENCODE that ends in DONE was accepted and took its PIXEL steps, and the
body was not too long. -/
theorem encodes_of_done {s t : State} (hcmd : s.inbox = [.writeCmd 1]) (hb : s.status.busy = false)
    (hrun : runSteps (s.argWidth.toNat * s.argHeight.toNat + 2) s = .next t) (hdone : t.mode = .done) :
    ∃ c bs e, encodeCheck s = .ok c ∧ Encodes (encodeStart c s) bs e ∧ e.pos = e.n ∧ t = encFinish e ∧
      ¬ Config.bodyMax < e.bodyLength := by
  replace hb : (s.withInbox []).status.busy = false := hb
  obtain ⟨u, hu, hrest⟩ := runSteps_next_iff.1 hrun
  rw [step_encode_last hcmd] at hu
  cases hc : encodeCheck (s.withInbox []) with
  | error cause =>
    rw [exec_encode_error hb hc] at hu
    cases hu
    rw [runSteps_rest rfl (.inr (.inr rfl))] at hrest
    cases hrest
    cases hdone
  | ok c =>
    rw [exec_encode_ok hb hc] at hu
    cases hu
    obtain ⟨bs, e, h, hp, rfl⟩ := Encodes.of_run (e₀ := encodeStart c s) rfl rfl .start
      ((Nat.zero_add _).trans (encodeStart_n hc).symm) hrest
    refine ⟨c, bs, e, hc, h, hp, rfl, fun hlong => ?_⟩
    rw [encFinish_tooLong hlong] at hdone
    cases hdone

/-- 42_chunk_encoder.md R157: FINISH appends the padding and patches the length into the header. -/
theorem closeStream_readBytes {s : State} {bs : List Byte}
    (h : s.dst.readBytes 0 s.cursorOffset = some (writeHeader ⟨s.w, s.h, 0⟩ ++ bs)) :
    s.closeStream.dst.readBytes 0 (s.cursorOffset + 4) =
      some (writeHeader ⟨s.w, s.h, BitVec.ofNat 32 s.bodyLength⟩ ++ (bs ++ [0, 0, 0, 0])) := by
  have hpad := Memory.readBytes_writeBytes_append h (List.replicate Config.padLen 0)
  have hlen := Memory.readBytes_length h
  have hend : s.cursorOffset + 4 = 8 + (4 + (bs ++ [0, 0, 0, 0]).length) := by
    rw [List.length_append, writeHeader_length] at hlen
    rw [List.length_append, List.length_cons, List.length_cons, List.length_cons, List.length_cons, List.length_nil]
    omega
  rw [show (List.replicate Config.padLen (0 : Byte)).length = 4 from rfl, hend, List.append_assoc, writeHeader,
    List.append_assoc] at hpad
  rw [hend, writeHeader, List.append_assoc]
  exact Memory.readBytes_writeBytes_patch (front := Config.magic ++ be16 s.w ++ be16 s.h) (old := be32 0) hpad rfl

/-- R157: what an ENCODE that ends in DONE leaves: a header with the length of the body, the chunks and the padding. -/
theorem encFinish_stream {s : State} {bs : List Byte} (hfits : ¬ Config.bodyMax < s.bodyLength)
    (h : s.dst.readBytes 0 s.cursorOffset = some (writeHeader ⟨s.w, s.h, 0⟩ ++ bs)) :
    (encFinish s).resLen.toNat = 12 + (bs.length + 4) ∧
    (BitVec.ofNat 32 (bs.length + 4)).toNat = bs.length + 4 ∧
    (encFinish s).dst.readBytes 0 (12 + (bs.length + 4)) =
      some (writeHeader ⟨s.w, s.h, BitVec.ofNat 32 (bs.length + 4)⟩ ++ (bs ++ [0, 0, 0, 0])) := by
  have hlen : bs.length = s.cur.toNat := by
    have := Memory.readBytes_length h
    rw [List.length_append, writeHeader_length, State.cursorOffset, Config.headerLen] at this
    omega
  have hbody : s.cur.toNat + 4 ≤ 4294967295 := Nat.le_of_not_lt hfits
  have hclosed := closeStream_readBytes h
  rw [encFinish_done hfits, hlen]
  have hsmall : 12 + (s.cur.toNat + 4) < 2 ^ 64 := by omega
  exact ⟨(BitVec.toNat_ofNat _ _).trans (Nat.mod_eq_of_lt hsmall),
    (BitVec.toNat_ofNat _ _).trans (Nat.mod_eq_of_lt (by omega)), hclosed⟩

end Sys2Proof.Machine
end

section
/-! SUPPORT. A decoder that follows an encoder chunk by chunk, and the round trip: O60. -/

namespace Sys2Proof.Machine

/-! The image. -/

/-- 20_memory.md R52: the pixel buffer holds this pixel at index `i`. -/
def PixelAt (image : Memory) (c : Channels) (i : Nat) (px : Pixel) : Prop :=
  image.readBytes (i * c.count) c.count = some (pixelBytes c px)

/-- 42_chunk_encoder.md R142: bytes a pixel is loaded from are the bytes it is stored as. -/
theorem pixelBytes_of_pixelOfBytes {c : Channels} {bs : List Byte} {px : Pixel} (hlen : bs.length = c.count)
    (h : pixelOfBytes bs = some px) : bs = pixelBytes c px := by
  cases c with
  | three =>
    match bs, hlen with
    | [r, g, b], _ => cases h; rfl
  | four =>
    match bs, hlen with
    | [r, g, b, a], _ => cases h; rfl

/-- R142: the pixel loaded is the one at POS. -/
theorem pixelAt_of_loadPixel {s : State} {px : Pixel} (h : s.loadPixel = some px) :
    PixelAt s.src s.c s.pos.toNat px := by
  simp only [State.loadPixel] at h
  split at h
  · cases h
  · rename_i bs hbs
    exact hbs.trans (congrArg some (pixelBytes_of_pixelOfBytes (Memory.readBytes_length hbs) h))

/-! The decoder. -/

/-- 43_chunk_decoder.md R182: `d` stands in the decode pass begun at `u`, and the pixels it has stored, one a step, are
the first of this image. -/
structure Decoded (u : State) (image : Memory) (d : State) : Prop where
  run    : runSteps d.pos.toNat u = .next d
  frame  : d.passFrame = u.passFrame
  pixels : ∀ a, a < d.pixelOffset → d.dst.read a = image.read a

/-- 43_chunk_decoder.md R194: a step that stores the image's next pixel. -/
theorem Decoded.store {u d : State} {image : Memory} (h : Decoded u image d) (hp : d.pos < d.n) {p : Pixel}
    {cache : Vector Pixel 64} {run : BitVec 14} {cur : BitVec 64}
    (hstep : step d = .next (State.storePixel { d with px := p, cache := cache, run := run, cur := cur }))
    (hpx : PixelAt image d.c d.pos.toNat p) :
    Decoded u image (State.storePixel { d with px := p, cache := cache, run := run, cur := cur }) where
  run := by
    rw [storePixel_pos, toNat_add_one_of_lt hp]
    exact runSteps_next_step h.run hstep
  frame := h.frame
  pixels a ha := by
    have hnext : (d.pos + 1).toNat * d.c.count = d.pixelOffset + d.c.count := by
      rw [toNat_add_one_of_lt hp, Nat.succ_mul]
      rfl
    have ha' : a < d.pixelOffset + d.c.count := hnext ▸ ha
    refine (storePixel_read _ a).trans ?_
    by_cases hbefore : a < d.pixelOffset
    · rw [if_neg fun hin => absurd hin.1 (Nat.not_le_of_lt hbefore)]
      exact h.pixels a hbefore
    · obtain ⟨j, rfl⟩ : ∃ j, a = d.pixelOffset + j := ⟨a - d.pixelOffset, by omega⟩
      rw [if_pos ⟨Nat.le_add_right _ _, ha'⟩]
      exact (congrArg _ (Nat.add_sub_cancel_left _ _)).trans
        ((Memory.readBytes_eq_some.1 hpx).2 j (Nat.lt_of_add_lt_add_left ha')).symm

/-- A decode pass without UNDERRUN, with the host silent. -/
structure Decoding (u : State) : Prop where
  silent : u.inbox = []
  mode   : u.mode = .dec
  status : u.status = Status.started

theorem Decoding.of_passFrame {u d : State} (h : Decoding u) (hf : d.passFrame = u.passFrame) : Decoding d :=
  ⟨(congrArg State.inbox hf).trans h.silent, (congrArg State.mode hf).trans h.mode,
    (congrArg State.status hf).trans h.status⟩

/-- 43_chunk_decoder.md R183: the repeats still owed are stored, one a step. -/
theorem Decoded.hold {u d : State} {image : Memory} (hu : Decoding u) (h : Decoded u image d) {r : Nat}
    (hr : d.run.toNat = r) (hfits : d.pos.toNat + r ≤ d.n.toNat)
    (hpx : ∀ i, d.pos.toNat ≤ i → i < d.pos.toNat + r → PixelAt image d.c i d.px) :
    ∃ pos dst, Decoded u image { d with run := 0, pos := pos, dst := dst } ∧ pos.toNat = d.pos.toNat + r := by
  induction r generalizing d with
  | zero =>
    have hzero : d.run = 0 := BitVec.eq_of_toNat_eq hr
    exact ⟨d.pos, d.dst, hzero ▸ h, rfl⟩
  | succ r ih =>
    have hp : d.pos < d.n := by
      rw [BitVec.lt_def]
      omega
    have hne : d.run ≠ 0 := fun h0 => by
      rw [h0] at hr
      cases hr
    have hd := hu.of_passFrame h.frame
    have h' := h.store hp (step_dec_hold hd.silent hd.mode hp hne) (hpx _ (Nat.le_refl _) (by omega))
    have hpos : (d.pos + 1).toNat = d.pos.toNat + 1 := toNat_add_one_of_lt hp
    have hrun : (d.run - 1).toNat = r := by bv_omega
    obtain ⟨pos, dst, h'', hpos'⟩ := ih h' hrun (by simp only [storePixel_pos, storePixel_n]; omega)
      (fun i hlow hhigh => hpx i (by simp only [storePixel_pos] at hlow; omega)
        (by simp only [storePixel_pos] at hhigh; omega))
    refine ⟨pos, dst, h'', ?_⟩
    rw [hpos', storePixel_pos, hpos]
    omega

/-- The chunk region of the decode pass `u` holds these bytes at this offset. -/
structure RegionHolds (u : State) (offset : Nat) (bs : List Byte) : Prop where
  bytes  : u.src.readBytes (12 + offset) bs.length = some bs
  inside : offset + bs.length ≤ u.cdl.toNat

theorem RegionHolds.append {u : State} {offset : Nat} {p q : List Byte} (h : RegionHolds u offset (p ++ q)) :
    RegionHolds u offset p ∧ RegionHolds u (offset + p.length) q := by
  obtain ⟨hbytes, hinside⟩ := h
  rw [List.length_append] at hbytes hinside
  obtain ⟨hp, hq⟩ := Memory.readBytes_split rfl rfl hbytes
  exact ⟨⟨hp, by omega⟩, ⟨Nat.add_assoc 12 offset _ ▸ hq, by omega⟩⟩

/-- 43_chunk_decoder.md R182, R184: a well-formed chunk at the cursor is fetched and executed. -/
theorem Decoded.step_chunk {u d t : State} {image : Memory} (hu : Decoding u) (h : Decoded u image d)
    (hp : d.pos < d.n) (hr : d.run = 0) {i : Instr} (hvalid : u.cfg.tags.valid) (hwf : i.wf = true)
    (hchunk : i.isChunk = true) (hregion : RegionHolds u d.cur.toNat (chunkBytes u.cfg.tags i))
    (he : exec i d = .next t) : step d = .next t.storePixel := by
  have hd := hu.of_passFrame h.frame
  have htags : d.cfg.tags = u.cfg.tags := congrArg Config.tags (congrArg State.cfg h.frame :)
  have hsrc : d.src = u.src := (congrArg State.src h.frame :)
  have hcdl : d.cdl = u.cdl := (congrArg State.cdl h.frame :)
  have hinside : d.cur < d.cdl := by
    have hlen := chunkBytes_length u.cfg.tags i
    have hsize := (size_bounds hchunk).1
    have := hregion.inside
    rw [BitVec.lt_def, hcdl]
    omega
  have hat : AtChunk d (chunkBytes u.cfg.tags i) := ⟨hd.silent, hd.mode, hp, hr, hinside, hsrc ▸ hregion.bytes⟩
  refine hat.step_eq ?_ he
  rw [htags]
  simpa using decodeChunk_chunkBytes hvalid hwf hchunk []

/-- 43_chunk_decoder.md R186, R187: both run chunks leave RUN one less than the pixels they cover. -/
theorem exec_runChunk (n : Nat) (s : State) :
    exec (runChunk n) s = .next ((s.advance (runChunk n).size).setRun (BitVec.ofNat 14 (n - 1))) := by
  rcases Nat.lt_or_ge 32 n with hlong | hshort
  · rw [runChunk_of_gt hlong, exec_run16, show n - 33 + 32 = n - 1 by omega]
    rfl
  · rw [runChunk_of_le hshort, exec_run8]
    rfl

theorem runChunk_isChunk (n : Nat) : (runChunk n).isChunk = true := by
  rw [runChunk]
  split_ifs <;> rfl

/-- A run chunk stores as many pixels as it covers: one as it is fetched, the others held. -/
theorem Decoded.storeRun {u d : State} {image : Memory} (hu : Decoding u) (hvalid : u.cfg.tags.valid)
    (h : Decoded u image d) (hr : d.run = 0) {n : Nat} (hlow : 1 ≤ n) (hhigh : n ≤ 8224)
    (hfits : d.pos.toNat + n ≤ d.n.toNat)
    (hpx : ∀ i, d.pos.toNat ≤ i → i < d.pos.toNat + n → PixelAt image d.c i d.px)
    (hregion : RegionHolds u d.cur.toNat (chunkBytes u.cfg.tags (runChunk n))) :
    ∃ pos dst,
      Decoded u image
        { d with run := 0, cur := d.cur + BitVec.ofNat 64 (runChunk n).size, pos := pos, dst := dst } ∧
      pos.toNat = d.pos.toNat + n := by
  have hp : d.pos < d.n := by
    rw [BitVec.lt_def]
    omega
  have hpos := toNat_add_one_of_lt hp
  have hstep := h.step_chunk hu hp hr hvalid (runChunk_wf_and_size hlow hhigh).1 (runChunk_isChunk n) hregion
    (exec_runChunk n d)
  obtain ⟨pos, dst, hheld, hpos'⟩ := (h.store hp hstep (hpx _ (Nat.le_refl _) (by omega))).hold hu (r := n - 1)
    ((BitVec.toNat_ofNat _ _).trans (Nat.mod_eq_of_lt (by omega)))
    (by simp only [storePixel_pos, storePixel_n, hpos]; omega)
    (fun i hlow hhigh => by
      simp only [storePixel_pos, hpos] at hlow hhigh
      exact hpx i (by omega) (by omega))
  refine ⟨pos, dst, hheld, ?_⟩
  rw [hpos', storePixel_pos, hpos]
  omega

/-! The decoder behind the encoder. -/

/-- 10_state.md R20: the latched geometry of two passes is the same. -/
structure SameGeometry (s t : State) : Prop where
  width    : s.w = t.w
  height   : s.h = t.h
  channels : s.c = t.c
  count    : s.n = t.n

theorem SameGeometry.of_passFrame {s t : State} (h : s.passFrame = t.passFrame) : SameGeometry s t :=
  ⟨(congrArg State.w h :), (congrArg State.h h :), (congrArg State.c h :), (congrArg State.n h :)⟩

theorem SameGeometry.trans {s t r : State} (h : SameGeometry s t) (h' : SameGeometry t r) : SameGeometry s r :=
  ⟨h.width.trans h'.width, h.height.trans h'.height, h.channels.trans h'.channels, h.count.trans h'.count⟩

/-- The decode pass `u` has the tags and the geometry of the encode pass that `e` stands in. -/
structure Matches (u e : State) : Prop where
  pass     : Decoding u
  tags     : u.cfg.tags = e.cfg.tags
  valid    : u.cfg.tags.valid
  geometry : SameGeometry u e

theorem Matches.of_passFrame {u e e' : State} (h : Matches u e) (hf : e.passFrame = e'.passFrame) : Matches u e' :=
  ⟨h.pass, h.tags.trans (congrArg (fun s : State => s.cfg.tags) hf :), h.valid,
    h.geometry.trans (.of_passFrame hf)⟩

/-- The decoder keeps that geometry as it goes. -/
theorem Matches.decoded_geometry {u e d : State} {image : Memory} (hu : Matches u e) (h : Decoded u image d) :
    SameGeometry d e := (SameGeometry.of_passFrame h.frame).trans hu.geometry

/-- 42_chunk_encoder.md R161: of the `k` pixels the encoder `e` has counted, the decoder `d` has stored all but the run
that is pending; it holds the encoder's PX, CACHE and CUR, and the pending pixels are PX. -/
structure Mirrors (u e : State) (k : Nat) (d : State) : Prop where
  decoded : Decoded u e.src d
  run     : d.run = 0
  px      : d.px = e.px
  cache   : d.cache = e.cache
  cur     : d.cur = e.cur
  pending : d.pos.toNat + e.run.toNat = k
  repeats : ∀ i, d.pos.toNat ≤ i → i < k → PixelAt e.src e.c i e.px

/-- R143: a pixel that repeats joins the pending run. -/
theorem Mirrors.countRun {u e d : State} {k : Nat} (h : Mirrors u e k d) (hrun : e.run.toNat ≤ 8223)
    (hpx : PixelAt e.src e.c k e.px) : Mirrors u (e.countRun e.px) (k + 1) d := by
  have hcount := countRun_toNat hrun e.px
  rw [if_pos rfl] at hcount
  rw [countRun_eq] at hcount ⊢
  refine ⟨h.decoded, h.run, h.px, h.cache, h.cur, ?_, fun i hlow hhigh => ?_⟩
  · rw [hcount, ← Nat.add_assoc, h.pending]
  · rcases Nat.lt_succ_iff_lt_or_eq.1 hhigh with hi | rfl
    · exact h.repeats i hlow hi
    · exact hpx

/-- 42_chunk_encoder.md R144: where a flush is due the decoder stores the whole pending run. -/
theorem Mirrors.flushRun {u e d : State} {k : Nat} (hu : Matches u e) (h : Mirrors u e k d) (hk : k ≤ e.n.toNat)
    (hrun : e.run.toNat ≤ 8224) (px : Pixel) (hregion : RegionHolds u e.cur.toNat (e.flushBytes px)) :
    ∃ d', Mirrors u (e.flushRun px) k d' := by
  by_cases hdue : e.flushDue px = true
  · obtain ⟨-, -, hc, hn⟩ := hu.decoded_geometry h.decoded
    have hpending := h.pending
    have hbytes : e.flushBytes px = chunkBytes u.cfg.tags (runChunk e.run.toNat) := by
      rw [State.flushBytes, if_pos hdue, hu.tags]
    rw [hbytes, ← h.cur] at hregion
    obtain ⟨pos, dst, hdecoded, hpos⟩ := h.decoded.storeRun hu.pass hu.valid h.run
      (one_le_toNat (flushDue_iff.1 hdue).1) hrun (by rw [hn]; omega)
      (by rw [hpending, hc, h.px]; exact h.repeats) hregion
    have hflush : e.flushRun px = (e.emit (chunkBytes e.cfg.tags (runChunk e.run.toNat))).setRun 0 := if_pos hdue
    rw [hflush]
    refine ⟨_, hdecoded, rfl, h.px, h.cache, ?_, hpos.trans hpending, fun i hlow hhigh => ?_⟩
    · rw [setRun_cur, emit_cur, chunkBytes_length, h.cur]
    · exact absurd ((hpos.trans hpending).ge.trans hlow) (Nat.not_le_of_lt hhigh)
  · have hsame : e.flushRun px = e := if_neg hdue
    rw [hsame]
    exact ⟨d, h⟩

/-- 42_chunk_encoder.md R147 to R149: with no run pending the decoder stores the pixel that differs. -/
theorem Mirrors.select {u e d : State} {k : Nat} (hu : Matches u e) (h : Mirrors u e k d) (hk : k < e.n.toNat)
    (hrun : e.run = 0) {px : Pixel} (hne : px ≠ e.px) (hpx : PixelAt e.src e.c k px)
    (hregion : RegionHolds u e.cur.toNat (e.selectBytes px)) :
    ∃ d', Mirrors u ((e.selectAndEmit px).nextPixel px) (k + 1) d' := by
  obtain ⟨-, -, hc, hn⟩ := hu.decoded_geometry h.decoded
  have hpos : d.pos.toNat = k := by
    have := h.pending
    rwa [hrun] at this
  have hp : d.pos < d.n := by
    rw [BitVec.lt_def, hn, hpos]
    exact hk
  have hbytes : e.selectBytes px = chunkBytes u.cfg.tags (selectChunk d.cache px d.px) := by
    rw [State.selectBytes, if_neg hne, hu.tags, h.cache, h.px]
  rw [hbytes, ← h.cur] at hregion
  have hstep := h.decoded.step_chunk hu.pass hp h.run hu.valid (selectChunk_wf _ _ _)
    (selectChunk_isChunk _ _ _) hregion (exec_selectChunk px d)
  have hstore := h.decoded.store hp hstep (by rwa [hc, hpos])
  have hpos' : (d.pos + 1).toNat = k + 1 := (toNat_add_one_of_lt hp).trans (congrArg (· + 1) hpos)
  rw [selectAndEmit_eq, if_neg hne, hbytes]
  refine ⟨_, hstore, h.run, rfl, congrArg (cacheUpdate · px) h.cache, ?_, ?_, fun i hlow hhigh => ?_⟩
  · show d.cur + _ = e.cur + _
    rw [h.cur, chunkBytes_length]
  · show (d.pos + 1).toNat + e.run.toNat = k + 1
    rw [hpos', hrun]
    rfl
  · rw [storePixel_pos, hpos'] at hlow
    omega

/-- The step goes on to the next pixel; one that repeats is PX already. -/
theorem Mirrors.nextPixel {u e d : State} {k : Nat} (h : Mirrors u e k d) : Mirrors u (e.nextPixel e.px) k d :=
  ⟨h.decoded, h.run, h.px, h.cache, h.cur, h.pending, h.repeats⟩

/-- 42_chunk_encoder.md R144: a pixel that differs flushes whatever run is pending. -/
theorem flushRun_of_ne {s : State} {px : Pixel} (hne : px ≠ s.px) :
    s.flushRun px = (s.emit (s.flushBytes px)).setRun 0 := by
  have hrun : (s.flushRun px).run = 0 := by
    rw [flushRun_run]
    split_ifs with hdue
    · rfl
    · by_contra h0
      exact hdue (flushDue_iff.2 ⟨h0, .inr (.inl hne)⟩)
  rw [flushRun_eq, hrun]

/-- R156 for a pixel that repeats: it is counted, and the run is flushed where that is due. -/
theorem Mirrors.repeatPixel {u e d : State} (hu : Matches u e) (hshape : EncoderShape e)
    (h : Mirrors u e e.pos.toNat d) (hp : e.pos < e.n) (hpx : PixelAt e.src e.c e.pos.toNat e.px)
    (hregion : RegionHolds u e.cur.toNat ((e.countRun e.px).flushBytes e.px)) :
    ∃ d', Mirrors u (e.encodePixel e.px) (e.pos.toNat + 1) d' := by
  have hcounted := h.countRun hshape.run hpx
  have hrun := countRun_toNat hshape.run e.px
  have hmatch := hu.of_passFrame (countRun_passFrame e e.px).symm
  have hsame : ((e.countRun e.px).flushRun e.px).px = e.px := by
    rw [flushRun_eq, countRun_eq]
    rfl
  rw [if_pos rfl] at hrun
  have hbound := hshape.run
  obtain ⟨d', hflushed⟩ := hcounted.flushRun hmatch (by rw [countRun_eq]; exact hp) (by omega) e.px
    (by rw [countRun_eq] at hregion ⊢; exact hregion)
  have hnext := hflushed.nextPixel
  rw [hsame] at hnext
  rw [State.encodePixel, State.selectAndEmit, if_pos hsame.symm]
  exact ⟨d', hnext⟩

/-- R156 for a pixel that differs: the pending run is flushed, and the pixel's own chunk follows. -/
theorem Mirrors.newPixel {u e d : State} (hu : Matches u e) (hshape : EncoderShape e)
    (h : Mirrors u e e.pos.toNat d) (hp : e.pos < e.n) {px : Pixel} (hne : px ≠ e.px)
    (hpx : PixelAt e.src e.c e.pos.toNat px) (hflush : RegionHolds u e.cur.toNat (e.flushBytes px))
    (hselect : RegionHolds u (e.cur.toNat + (e.flushBytes px).length) (e.selectBytes px)) :
    ∃ d', Mirrors u (e.encodePixel px) (e.pos.toNat + 1) d' := by
  have hbound := hshape.run
  obtain ⟨d', hflushed⟩ := h.flushRun hu (Nat.le_of_lt hp) (by omega) px hflush
  have hmatch := hu.of_passFrame (flushRun_passFrame e px).symm
  have hcur : (e.cur + BitVec.ofNat 64 (e.flushBytes px).length).toNat = e.cur.toNat + (e.flushBytes px).length := by
    have := hflush.inside
    have := u.cdl.isLt
    rw [BitVec.toNat_add, BitVec.toNat_ofNat]
    omega
  have hcount : e.countRun px = e := if_neg hne
  rw [State.encodePixel, hcount]
  rw [flushRun_of_ne hne] at hflushed hmatch ⊢
  exact hflushed.select hmatch hp rfl hne hpx (hcur ▸ hselect)

/-- R156: what one PIXEL step of the encoder emits takes the decoder as far. -/
theorem Mirrors.encodePixel {u e d : State} (hu : Matches u e) (hshape : EncoderShape e)
    (h : Mirrors u e e.pos.toNat d) (hp : e.pos < e.n) {px : Pixel} (hl : e.loadPixel = some px)
    (hregion : RegionHolds u e.cur.toNat (e.stepBytes px)) :
    ∃ d', Mirrors u (e.encodePixel px) (e.pos.toNat + 1) d' := by
  have hpx := pixelAt_of_loadPixel hl
  obtain ⟨hflush, hselect⟩ := hregion.append
  by_cases hrepeat : px = e.px
  · subst hrepeat
    exact h.repeatPixel hu hshape hp hpx hflush
  · have hcount : e.countRun px = e := if_neg hrepeat
    rw [hcount] at hflush hselect
    exact h.newPixel hu hshape hp hrepeat hpx hflush hselect

/-! The round trip. -/

/-- Over a whole encode pass: a decoder whose region holds what the encoder has emitted mirrors it. -/
theorem Encodes.mirrors {u e₀ e : State} {bs start : List Byte} (h : Encodes e₀ bs e) (hu : Matches u e₀)
    (hshape : EncoderShape e₀) (hstart : e₀.dst.readBytes 0 e₀.cursorOffset = some start) (hlen : start.length = 12)
    (hfirst : Mirrors u e₀ e₀.pos.toNat u) (hregion : RegionHolds u 0 bs) :
    ∃ d, Mirrors u e e.pos.toNat d := by
  induction h with
  | start => exact ⟨u, hfirst⟩
  | @pixel bs e px h hp hl ih =>
    obtain ⟨hbefore, hstep⟩ := hregion.append
    obtain ⟨d, hd⟩ := ih hbefore
    have hcur : bs.length = e.cur.toNat := by
      have := Memory.readBytes_length (h.stream hshape hstart)
      rw [List.length_append, hlen, State.cursorOffset, Config.headerLen] at this
      omega
    rw [Nat.zero_add, hcur] at hstep
    rw [encodePixel_pos hp]
    exact hd.encodePixel (hu.of_passFrame h.passFrame.symm) (h.shape hshape) hp hl hstep

/-- The pass that DECODE begins at `u` on a stream with this header. -/
def decodeStart (c : Channels) (hd : Header) (u : State) : State := decodeBegin c hd (u.withInbox []).accept

/-- 43_chunk_decoder.md R181, R198: a DECODE of a header, chunks and padding begins a pass over those chunks. -/
theorem step_decode_stream {u : State} {c : Channels} {hd : Header} {bs : List Byte} (hcmd : u.inbox = [.writeCmd 2])
    (hb : u.status.busy = false) (hc : Channels.ofArg u.argChannels = some c) (hw : hd.width ≠ 0) (hh : hd.height ≠ 0)
    (hbody : hd.bodyLength.toNat = bs.length + 4) (hlen : u.argSrcLen.toNat = 12 + (bs.length + 4))
    (hsrc : u.src.readBytes 0 (12 + (bs.length + 4)) = some (writeHeader hd ++ (bs ++ [0, 0, 0, 0]))) :
    step u = .next (decodeStart c hd u) ∧ RegionHolds (decodeStart c hd u) 0 bs := by
  obtain ⟨hheader, hrest⟩ := Memory.readBytes_split (p := writeHeader hd) (q := bs ++ [0, 0, 0, 0]) rfl
    List.length_append hsrc
  obtain ⟨hchunks, -⟩ := Memory.readBytes_split (p := bs) (q := [0, 0, 0, 0]) rfl rfl hrest
  have hread : readHeader u.src u.argSrcLen.toNat = some (.ok hd) :=
    (readHeader_written_iff hheader).2 ⟨hw, hh, by omega⟩
  have hcheck : decodeCheck u = some (.ok (c, hd)) := by
    simp only [decodeCheck, hc, hread]
  refine ⟨(step_decode_last hcmd).trans (exec_decode_ok (s := u.withInbox []) hb hcheck), hchunks, ?_⟩
  show 0 + bs.length ≤ (chunkDataLength hd.bodyLength).toNat
  rw [chunkDataLength_toNat]
  omega

/-- The two START steps leave a decoder and an encoder that match, with no pixel done. -/
theorem decodeStart_matches {s u : State} {c : Channels} {hd : Header} (htags : u.cfg.tags = s.cfg.tags)
    (hvalid : s.cfg.tags.valid) (hw : hd.width = (encodeStart c s).w) (hh : hd.height = (encodeStart c s).h) :
    Matches (decodeStart c hd u) (encodeStart c s) := by
  have hcount : (decodeStart c hd u).n = (encodeStart c s).n :=
    congrArg₂ (fun w h : BitVec 16 => BitVec.ofNat 32 (w.toNat * h.toNat)) hw hh
  exact ⟨⟨rfl, rfl, rfl⟩, htags, htags ▸ hvalid, hw, hh, rfl, hcount⟩

theorem decodeStart_mirrors (s u : State) (c : Channels) (hd : Header) :
    Mirrors (decodeStart c hd u) (encodeStart c s) 0 (decodeStart c hd u) where
  decoded := ⟨rfl, rfl, fun a ha => absurd ha (by simp [State.pixelOffset, decodeStart, decodeBegin])⟩
  run     := rfl
  px      := rfl
  cache   := rfl
  cur     := rfl
  pending := rfl
  repeats := fun _ _ hi => absurd hi (Nat.not_lt_zero _)

/-- 43_chunk_decoder.md R196: where the encoder's pixels are all encoded, the decoder's are all stored, and FINISH
reports them. -/
theorem Mirrors.finish {u e d : State} (hu : Matches u e) (hshape : EncoderShape e) (hp : e.pos = e.n)
    (h : Mirrors u e e.pos.toNat d) :
    ∃ v, runSteps (e.n.toNat + 1) u = .next v ∧ v.status = Status.finished false ∧ v.resWidth = e.w ∧
      v.resHeight = e.h ∧ v.resLen.toNat = e.n.toNat * e.c.count ∧
      ∀ a, a < v.resLen.toNat → v.dst.read a = e.src.read a := by
  have hd := hu.pass.of_passFrame h.decoded.frame
  obtain ⟨hw, hh, hc, hn⟩ := hu.decoded_geometry h.decoded
  have hpos : d.pos = e.n := by
    have hpending := h.pending
    rw [hshape.last hp, hp] at hpending
    exact BitVec.eq_of_toNat_eq hpending
  have hrun := h.decoded.run
  have hlen := decFinish_resLen d
  rw [hpos] at hrun
  refine ⟨decFinish d, runSteps_next_step hrun (step_dec_finish hd.silent hd.mode (hpos.trans hn.symm)),
    congrArg Status.finished (congrArg Status.underrun hd.status), hw, hh, by rw [hlen, hn, hc],
    fun a ha => h.decoded.pixels a ?_⟩
  rwa [hlen, hn, ← hpos] at ha

/-- The geometry of an encode pass is that of the arguments of its command, and its pixels are those of SRC. -/
theorem Encodes.arguments {s e : State} {c : Channels} {bs : List Byte} (h : Encodes (encodeStart c s) bs e)
    (hc : encodeCheck s = .ok c) :
    e.w.toNat = s.argWidth.toNat ∧ e.h.toNat = s.argHeight.toNat ∧
      e.n.toNat = s.argWidth.toNat * s.argHeight.toNat ∧ e.c.count = s.argChannels.toNat ∧ e.src = s.src := by
  obtain ⟨⟨-, hw⟩, -, hh⟩ := encodeCheck_ok hc
  obtain ⟨hw₀, hh₀, hc₀, hn₀⟩ := SameGeometry.of_passFrame h.passFrame
  rw [hw₀, hh₀, hc₀, hn₀]
  exact ⟨toNat_setWidth_16 hw, toNat_setWidth_16 hh, encodeStart_n hc, (ofArg_some (encodeCheck_channels hc)).2,
    (congrArg State.src h.passFrame :)⟩

theorem ne_zero_of_one_le_toNat {w : Nat} {v : BitVec w} (h : 1 ≤ v.toNat) : v ≠ 0 := by
  rintro rfl
  simp at h

/-- Settles O60: ENCODE leaves a header, the chunks its PIXEL steps emitted and padding; the decoder mirrors those steps
to the last pixel, no run being pending there. -/
theorem decodeOfEncodedImageIsTheImage : Obligations.DecodeOfEncodedImageIsTheImage := by
  intro s t u hvalid hcmd hb hrun hdone htags hcmd' hb' hchannels hlen hsrc
  obtain ⟨c, bs, e, hcheck, he, hp, rfl, hfits⟩ := encodes_of_done hcmd hb hrun hdone
  obtain ⟨⟨hw, -⟩, hh, -⟩ := encodeCheck_ok hcheck
  obtain ⟨hwidth, hheight, hn, hcount, himage⟩ := he.arguments hcheck
  have hshape := encodeStart_shape c s
  obtain ⟨hw₀, hh₀, -, -⟩ := SameGeometry.of_passFrame he.passFrame
  have hemitted := he.stream hshape (encodeStart_stream c s)
  rw [← hw₀, ← hh₀] at hemitted
  obtain ⟨hres, hbody, hstream⟩ := encFinish_stream hfits hemitted
  have hreceived := (Memory.readBytes_congr (m := u.src) (x := 0) fun k hk => hsrc (0 + k) (by omega)).trans hstream
  obtain ⟨hstep, hregion⟩ := step_decode_stream hcmd' hb' (hchannels ▸ encodeCheck_channels hcheck)
    (ne_zero_of_one_le_toNat (hwidth ▸ hw)) (ne_zero_of_one_le_toNat (hheight ▸ hh)) hbody (by rw [hlen, hres])
    hreceived
  have hmatch := decodeStart_matches (hd := ⟨e.w, e.h, BitVec.ofNat 32 (bs.length + 4)⟩) htags hvalid hw₀ hh₀
  obtain ⟨d, hd⟩ := he.mirrors hmatch hshape (encodeStart_stream c s) rfl (decodeStart_mirrors s u c _) hregion
  obtain ⟨v, hv, hstatus, hrw, hrh, hrl, hpixels⟩ :=
    hd.finish (hmatch.of_passFrame he.passFrame.symm) (he.shape hshape) hp
  rw [hn] at hv hrl
  rw [hcount] at hrl
  rw [himage] at hpixels
  exact ⟨v, runSteps_next_iff.2 ⟨_, hstep, hv⟩, hstatus, hrw ▸ hwidth, hrh ▸ hheight, hrl, hpixels⟩

end Sys2Proof.Machine
end

section
/-! SUPPORT. The errors of the START steps and error entry: O33, O35, O38. -/

namespace Sys2Proof.Machine

/-! The checks of ENCODE, in the order of 60_exceptions.md R244. -/

theorem dimensionLegal_eq_false_iff {v : BitVec 32} :
    dimensionLegal v = false ↔ v.toNat < 1 ∨ 65535 < v.toNat := by
  rw [← Bool.not_eq_true, dimensionLegal_iff]
  omega

section EncodeCheck
variable {s : State}

theorem encodeCheck_badWidth (hw : s.argWidth.toNat < 1 ∨ 65535 < s.argWidth.toNat) :
    encodeCheck s = .error .badWidth := if_pos (dimensionLegal_eq_false_iff.2 hw)

variable (hw : 1 ≤ s.argWidth.toNat ∧ s.argWidth.toNat ≤ 65535)
include hw

theorem encodeCheck_badHeight (hh : s.argHeight.toNat < 1 ∨ 65535 < s.argHeight.toNat) :
    encodeCheck s = .error .badHeight := by
  simp [encodeCheck, dimensionLegal_iff.2 hw, dimensionLegal_eq_false_iff.2 hh]

variable (hh : 1 ≤ s.argHeight.toNat ∧ s.argHeight.toNat ≤ 65535)
include hh

theorem encodeCheck_badChannels (hc : s.argChannels ≠ 3 ∧ s.argChannels ≠ 4) :
    encodeCheck s = .error .badChannels := by
  simp [encodeCheck, dimensionLegal_iff.2 hw, dimensionLegal_iff.2 hh, ofArg_illegal hc]

theorem encodeCheck_shortPixelBuffer (hc : s.argChannels = 3 ∨ s.argChannels = 4)
    (hlen : s.argSrcLen.toNat < s.argWidth.toNat * s.argHeight.toNat * s.argChannels.toNat) :
    encodeCheck s = .error .shortPixelBuffer := by
  obtain ⟨c, hofArg, hcount⟩ := ofArg_legal hc
  rw [← hcount] at hlen
  simp [encodeCheck, dimensionLegal_iff.2 hw, dimensionLegal_iff.2 hh, hofArg, hlen]

end EncodeCheck

/-! The checks of DECODE, in the order of 60_exceptions.md R244. -/

theorem readHeader_shortBuffer (src : Memory) {len : Nat} (h : len < 12) :
    readHeader src len = some (.error .shortBuffer) := if_pos h

theorem readHeader_badMagic {src : Memory} {len : Nat} (hlen : 12 ≤ len) {m : List Byte}
    (hm : src.readBytes 0 4 = some m) (hne : m ≠ Config.magic) : readHeader src len = some (.error .badMagic) := by
  rw [readHeader, if_neg (Nat.not_lt_of_le hlen), hm]
  exact if_pos hne

theorem checkFields_zeroDimension {hd : Header} (h : hd.width = 0 ∨ hd.height = 0) (len : Nat) :
    checkFields hd len = .error .zeroDimension := if_pos h

theorem checkFields_lengthMismatch {hd : Header} {len : Nat} (hw : hd.width ≠ 0) (hh : hd.height ≠ 0)
    (hlen : hd.bodyLength.toNat + 12 ≠ len) : checkFields hd len = .error .lengthMismatch := by
  rw [checkFields, if_neg (not_or.2 ⟨hw, hh⟩)]
  exact if_pos hlen

theorem decodeCheck_badChannels {s : State} (hc : s.argChannels ≠ 3 ∧ s.argChannels ≠ 4) :
    decodeCheck s = some (.error .badChannels) := by
  simp only [decodeCheck, ofArg_illegal hc]

/-- 43_chunk_decoder.md R181: after the channel check the causes are those of `read_header`. -/
theorem decodeCheck_of_readHeader {s : State} (hc : s.argChannels = 3 ∨ s.argChannels = 4) {cause : FormatCause}
    (h : readHeader s.src s.argSrcLen.toNat = some (.error cause)) : decodeCheck s = some (.error cause) := by
  obtain ⟨c, hofArg, -⟩ := ofArg_legal hc
  simp only [decodeCheck, hofArg, h]

/-! A failed START. -/

section FailedStart
variable {s : State} (hb : s.status.busy = false)
include hb

/-- 60_exceptions.md R245: a failed check of ENCODE writes the error pair, STATUS and MODE alone. -/
theorem exec_encode_failedStart {cause : InvalidCause} (hc : encodeCheck s = .error cause) :
    exec .encodeCmd s = .next (failedStart s 1 cause.code) := exec_encode_error hb hc

/-- 60_exceptions.md R245: a failed check of DECODE writes the error pair, STATUS and MODE alone. -/
theorem exec_decode_failedStart {cause : FormatCause} (hc : decodeCheck s = some (.error cause)) :
    exec .decodeCmd s = .next (failedStart s 2 cause.code) := exec_decode_error hb hc

end FailedStart

/-- Settles O33, check by check. -/
theorem encodeRejectsIllegalArguments : Obligations.EncodeRejectsIllegalArguments := by
  intro s hb
  refine ⟨fun hw => ?width, fun hw => ⟨fun hh => ?height, fun hh => ⟨fun hc => ?channels, fun hc hlen => ?buffer⟩⟩⟩
  case width => exact exec_encode_failedStart hb (encodeCheck_badWidth hw)
  case height => exact exec_encode_failedStart hb (encodeCheck_badHeight hw hh)
  case channels => exact exec_encode_failedStart hb (encodeCheck_badChannels hw hh hc)
  case buffer => exact exec_encode_failedStart hb (encodeCheck_shortPixelBuffer hw hh hc hlen)

/-- Settles O35: the channel check, then the checks of `readHeader` in order, the last two on the fields read back. -/
theorem decodeRejectsIllegalStreams : Obligations.DecodeRejectsIllegalStreams := by
  intro s hb
  refine ⟨fun hc => exec_decode_failedStart hb (decodeCheck_badChannels hc), fun hc => ?_⟩
  have hfail {cause : FormatCause} (h : readHeader s.src s.argSrcLen.toNat = some (.error cause)) :
      exec .decodeCmd s = .next (failedStart s 2 cause.code) :=
    exec_decode_failedStart hb (decodeCheck_of_readHeader hc h)
  refine ⟨fun hshort => ?short, fun hlen => ⟨fun m hm hne => ?magic, fun hd hsrc => ?fields⟩⟩
  case short => exact hfail (readHeader_shortBuffer s.src hshort)
  case magic => exact hfail (readHeader_badMagic hlen hm hne)
  case fields =>
    have hread := readHeader_written hsrc hlen
    refine ⟨fun hzero => ?zero, fun ⟨hw, hh, hne⟩ => ?length⟩
    case zero => exact hfail (hread.trans (congrArg some (checkFields_zeroDimension hzero _)))
    case length => exact hfail (hread.trans (congrArg some (checkFields_lengthMismatch hw hh hne)))

/-- Settles O38: the writes are those of `raise`, the cause is in bounds, and the block rests in ERROR. -/
theorem raiseWritesTheErrorStateOnly : Obligations.RaiseWritesTheErrorStateOnly := by
  intro s e
  obtain ⟨-, hone, hsix⟩ := errorCode_bounds e
  refine ⟨?writes, hone, hsix, fun hsilent => step_rest hsilent (.inr (.inr rfl))⟩
  cases e with
  | invalidArgument cause => rfl
  | formatError cause => rfl

end Sys2Proof.Machine
end

section
/-! SUPPORT. The values the spec gives for reset: O51. -/

namespace Sys2Proof.Machine

/-- Settles O51: the registers are read off the reset state; its inbox is empty and MODE is IDLE, so the block rests. -/
theorem resetValues : Obligations.ResetValues :=
  ⟨rfl, rfl, rfl, rfl, rfl, rfl, rfl, step_rest (s := State.reset) rfl (.inl rfl)⟩

end Sys2Proof.Machine
end
